-- ==== Sys2Proof/Word.lean ====
section
/-! DEFINITION. The word types of the ADCC (R9, R10): every register is an unsigned bit vector of its stated width. -/

namespace Sys2Proof

/-- A byte: a bus payload byte, a command byte, one byte lane of a word (R9). -/
abbrev Byte := BitVec 8

/-- The 32-bit word of width `W` (R8): the raw sample, RESULT and the data word of a host access. -/
abbrev Word := BitVec 32

/-- A 7-bit device address on the serial bus, width `AW` (R8, R36). -/
abbrev BusAddr := BitVec 7

end Sys2Proof
end

