-- ==== Sys2Proof/Config.lean ====
section
/-! DEFINITION. The parameters of R8 and the register names of the host window (R37). -/

namespace Sys2Proof

/-- `POS_SAT`: RESULT on positive overflow (R8, R104; decision D11 of the spec). Log 12. -/
def Config.posSat : Word := 0x7FFFFFFF#32

/-- `NEG_SAT`: RESULT on negative overflow (R8, R105; decision D11 of the spec). Log 12. -/
def Config.negSat : Word := 0x80000000#32

/-- `ADDR_RESET`: the reset value of ADDR (R8, R21; decision D22 of the spec). -/
def Config.addrReset : BusAddr := 0x00#7

/-- `HWIN`: the size in bytes of the host register window (R8, R36). -/
def Config.hwin : Nat := 32

/-- `TICK_PERIOD`: the time between TICK pulses. R8 leaves it OPEN and no rule reads it (R136), so it is a free
value: nothing in Lean can evaluate it. Log 14. -/
opaque Config.tickPeriod : Nat

/-- The eight word registers of the host window (R37). -/
inductive HostReg where
  | ctrl | status | addr | cmd | timeout | raw | result | tickcnt
  deriving DecidableEq, Repr

/-- How the host reaches a register of the window (R37, column "access"). -/
inductive HostAccessKind where
  | writeOnly | readOnly | readWrite
  deriving DecidableEq, Repr

end Sys2Proof
end

