-- ==== Sys2Proof/Syntax.lean ====
section
/-! DEFINITION. The operation set of the ADCC (R12): one constructor per row of spec/opcode_table.json. -/

namespace Sys2Proof

/-- The ADCC's instructions (R12), in the order of the opcode table. An operand is every bit of the encoding that the
row does not fix, so that no bit is dropped. -/
inductive Instr where
  -- HOSTACC (R50): host writes carry a 32-bit data word
  | wrCtrl (data : Word)
  | wrStatus (data : Word)
  | wrAddr (data : Word)
  | wrCmd (data : Word)
  | wrTimeout (data : Word)
  | wrRaw (data : Word)
  | wrResult (data : Word)
  | wrTickcnt (data : Word)
  -- HOSTACC (R50): host reads
  | rdCtrl
  | rdStatus
  | rdAddr
  | rdCmd
  | rdTimeout
  | rdRaw
  | rdResult
  | rdTickcnt
  -- BUSREQ (R63): the device address, and the payload byte of a command write
  | busWriteCmd (a : BusAddr) (payload : Byte)
  | busRead4 (a : BusAddr)
  -- RAW32 (R61, R64): the bits of the raw sample below the overflow pattern, or its three fields
  | decPosovf (low : BitVec 24)
  | decNegovf (low : BitVec 24)
  | decNormal (marker : BitVec 1) (data : BitVec 24) (sub : BitVec 7)
  -- CMD8 (R56): a command byte, and the row one of its fields matches
  | cmdSpd1x (b : Byte)
  | cmdSpd2x (b : Byte)
  | cmdFr5060hz (b : Byte)
  | cmdFr50hz (b : Byte)
  | cmdFr60hz (b : Byte)
  | cmdFrReserved (b : Byte)
  | cmdImExternal (b : Byte)
  | cmdImInternalTemp (b : Byte)
  | cmdReservedHi (b : Byte)
  deriving DecidableEq, Repr

end Sys2Proof
end

