-- ==== Sys2Proof/WellFormed.lean ====
section
/-! DEFINITION. Which terms of Instr are instructions: the operand bits must select the row they stand under. -/

namespace Sys2Proof

/-- The most significant byte of a raw-sample word given by its marker and data fields (R61). -/
def rawMsb (marker : BitVec 1) (data : BitVec 24) : Byte := marker ++ data.extractLsb' 17 7

/-- `i` is an instruction. DEC_NORMAL applies only when the MSB byte is neither overflow pattern (R64); a CMD8 row
applies to the command bytes with its field value (R56). CMD_RESERVED_HI names bits 7:4 whatever they hold
(R56, R65(3); log 8). -/
def wellFormed : Instr → Bool
  | .wrCtrl _ | .wrStatus _ | .wrAddr _ | .wrCmd _ | .wrTimeout _ | .wrRaw _ | .wrResult _ | .wrTickcnt _ => true
  | .rdCtrl | .rdStatus | .rdAddr | .rdCmd | .rdTimeout | .rdRaw | .rdResult | .rdTickcnt => true
  | .busWriteCmd _ _ | .busRead4 _ => true
  | .decPosovf _ | .decNegovf _ => true
  | .decNormal marker data _ => rawMsb marker data != 0xC0#8 && rawMsb marker data != 0x3F#8
  | .cmdSpd1x b => b &&& 0x01#8 == 0x00#8
  | .cmdSpd2x b => b &&& 0x01#8 == 0x01#8
  | .cmdFr5060hz b => b &&& 0x06#8 == 0x00#8
  | .cmdFr50hz b => b &&& 0x06#8 == 0x02#8
  | .cmdFr60hz b => b &&& 0x06#8 == 0x04#8
  | .cmdFrReserved b => b &&& 0x06#8 == 0x06#8
  | .cmdImExternal b => b &&& 0x08#8 == 0x00#8
  | .cmdImInternalTemp b => b &&& 0x08#8 == 0x08#8
  | .cmdReservedHi _ => true

end Sys2Proof
end

