-- ==== Sys2Proof/Decode.lean ====
section
/-! DEFINITION. The four encoded formats (30_encoding.md): the decoder, total on any bytes and rejecting by name, and
after it the encoder, written from the same tables. -/

namespace Sys2Proof

/-- The four fields of a command byte (R56). -/
inductive CmdField where
  | spd | fr | im | reservedHi
  deriving DecidableEq, Repr

/-- The formats of 30_encoding.md section 1. Their words overlap, and the channel a word travels on tells them apart:
the host window, the serial bus, SR, and the CMD register with the field asked about. Log 5. -/
inductive Format where
  | hostAcc
  | busReq
  | raw32
  | cmd8 (field : CmdField)
  deriving DecidableEq, Repr

/-- Why the decoder refuses bytes. -/
inductive DecodeError where
  /-- fewer bytes than the format needs (R66) -/
  | tooShort
  /-- bits 7:6 of the byte that holds the 6-bit HA are not 0 (log 11) -/
  | notSixBits
  /-- HA with `off[1:0] != 00` (R39, R50) -/
  | misalignedOffset
  deriving DecidableEq, Repr

/-! ## The host access word (R50) -/

/-- The byte offset of a register in the host window (R37). -/
def HostReg.offset : HostReg → BitVec 5
  | .ctrl => 0x00#5
  | .status => 0x04#5
  | .addr => 0x08#5
  | .cmd => 0x0C#5
  | .timeout => 0x10#5
  | .raw => 0x14#5
  | .result => 0x18#5
  | .tickcnt => 0x1C#5

/-- The register at a byte offset of the window; none where `off[1:0] != 00` (R37, R39). -/
def HostReg.ofOffset (off : BitVec 5) : Option HostReg :=
  if off = 0x00#5 then some .ctrl
  else if off = 0x04#5 then some .status
  else if off = 0x08#5 then some .addr
  else if off = 0x0C#5 then some .cmd
  else if off = 0x10#5 then some .timeout
  else if off = 0x14#5 then some .raw
  else if off = 0x18#5 then some .result
  else if off = 0x1C#5 then some .tickcnt
  else none

/-- How the host reaches each register (R37). -/
def HostReg.access : HostReg → HostAccessKind
  | .ctrl => .writeOnly
  | .status | .raw | .result | .tickcnt => .readOnly
  | .addr | .cmd | .timeout => .readWrite

/-- HOST_WR at a register (R50, left half of its table). -/
def writeInstr (r : HostReg) (data : Word) : Instr :=
  match r with
  | .ctrl => .wrCtrl data
  | .status => .wrStatus data
  | .addr => .wrAddr data
  | .cmd => .wrCmd data
  | .timeout => .wrTimeout data
  | .raw => .wrRaw data
  | .result => .wrResult data
  | .tickcnt => .wrTickcnt data

/-- HOST_RD at a register (R50, right half of its table). -/
def readInstr : HostReg → Instr
  | .ctrl => .rdCtrl
  | .status => .rdStatus
  | .addr => .rdAddr
  | .cmd => .rdCmd
  | .timeout => .rdTimeout
  | .raw => .rdRaw
  | .result => .rdResult
  | .tickcnt => .rdTickcnt

/-- The host access word `HA = dir ++ off` (R50): dir 1 is a write. -/
def haWord (write : Bool) (off : BitVec 5) : BitVec 6 := BitVec.ofBool write ++ off

/-- The host operation a host access word selects, with the data word a write carries (R50). -/
def decodeHostAcc (ha : BitVec 6) (data : Word) : Option Instr :=
  match HostReg.ofOffset (ha.extractLsb' 0 5) with
  | none => none
  | some r => if ha.getLsbD 5 then some (writeInstr r data) else some (readInstr r)

/-! ## The bus request word (R63) -/

/-- The bus request word `BRW = a ++ rw` (R63): rw 1 is a read. -/
def brwWord (a : BusAddr) (read : Bool) : Byte := a ++ BitVec.ofBool read

/-- The bus transaction a bus request word selects, with the payload byte a command write carries (R63). -/
def decodeBusReq (brw : Byte) (payload : Byte) : Instr :=
  if brw.getLsbD 0 then .busRead4 (brw.extractLsb' 1 7) else .busWriteCmd (brw.extractLsb' 1 7) payload

/-! ## The raw-sample word (R61, R64) -/

/-- The decode case of a raw-sample word: the two overflow rows first, DEC_NORMAL for every other word (R64). -/
def decodeRaw32 (w : Word) : Instr :=
  if w.extractLsb' 24 8 = 0xC0#8 then .decPosovf (w.extractLsb' 0 24)
  else if w.extractLsb' 24 8 = 0x3F#8 then .decNegovf (w.extractLsb' 0 24)
  else .decNormal (w.extractLsb' 31 1) (w.extractLsb' 7 24) (w.extractLsb' 0 7)

/-! ## The command byte (R56) -/

/-- The row that a field of a command byte matches (R56). -/
def decodeCmd8 (field : CmdField) (b : Byte) : Instr :=
  match field with
  | .spd => if b.extractLsb' 0 1 = 0#1 then .cmdSpd1x b else .cmdSpd2x b
  | .fr =>
    if b.extractLsb' 1 2 = 0b00#2 then .cmdFr5060hz b
    else if b.extractLsb' 1 2 = 0b01#2 then .cmdFr50hz b
    else if b.extractLsb' 1 2 = 0b10#2 then .cmdFr60hz b
    else .cmdFrReserved b
  | .im => if b.extractLsb' 3 1 = 0#1 then .cmdImExternal b else .cmdImInternalTemp b
  | .reservedHi => .cmdReservedHi b

/-- The four rows that hold of a command byte, one for each of its fields (R56). -/
def commandByteRows (b : Byte) : List Instr :=
  [decodeCmd8 .spd b, decodeCmd8 .fr b, decodeCmd8 .im b, decodeCmd8 .reservedHi b]

/-! ## Bytes -/

/-- Four bytes, lane 0 first, as a word: the little-endian lane numbering of R40. -/
def wordOfLanes (l0 l1 l2 l3 : Byte) : Word := l3 ++ l2 ++ l1 ++ l0

/-- Four bytes in wire order as a word: the first byte is byte index 3 (R44). -/
def wordOfWire (b0 b1 b2 b3 : Byte) : Word := b0 ++ b1 ++ b2 ++ b3

/-- The decoder: the instruction at the head of the bytes of a channel, and the bytes after it. HA stands in the low
6 bits of a byte and the data word follows in lane order; a raw sample stands in wire order. Log 11. -/
def decode (f : Format) (bytes : List Byte) : Except DecodeError (Instr × List Byte) :=
  match f, bytes with
  | .hostAcc, [] => .error .tooShort
  | .hostAcc, h :: rest =>
    if h.extractLsb' 6 2 ≠ 0#2 then .error .notSixBits
    else
      match HostReg.ofOffset (h.extractLsb' 0 5) with
      | none => .error .misalignedOffset
      | some r =>
        if h.getLsbD 5 then
          match rest with
          | l0 :: l1 :: l2 :: l3 :: rest' => .ok (writeInstr r (wordOfLanes l0 l1 l2 l3), rest')
          | _ => .error .tooShort
        else .ok (readInstr r, rest)
  | .busReq, [] => .error .tooShort
  | .busReq, brw :: rest =>
    if brw.getLsbD 0 then .ok (decodeBusReq brw 0#8, rest)
    else
      match rest with
      | payload :: rest' => .ok (decodeBusReq brw payload, rest')
      | [] => .error .tooShort
  | .raw32, b0 :: b1 :: b2 :: b3 :: rest => .ok (decodeRaw32 (wordOfWire b0 b1 b2 b3), rest)
  | .raw32, _ => .error .tooShort
  | .cmd8 _, [] => .error .tooShort
  | .cmd8 field, b :: rest => .ok (decodeCmd8 field b, rest)

/-! ## The encoder -/

/-- The format an instruction is encoded in (30_encoding.md section 1). -/
def formatOf : Instr → Format
  | .wrCtrl _ | .wrStatus _ | .wrAddr _ | .wrCmd _ | .wrTimeout _ | .wrRaw _ | .wrResult _ | .wrTickcnt _ => .hostAcc
  | .rdCtrl | .rdStatus | .rdAddr | .rdCmd | .rdTimeout | .rdRaw | .rdResult | .rdTickcnt => .hostAcc
  | .busWriteCmd _ _ | .busRead4 _ => .busReq
  | .decPosovf _ | .decNegovf _ | .decNormal _ _ _ => .raw32
  | .cmdSpd1x _ | .cmdSpd2x _ => .cmd8 .spd
  | .cmdFr5060hz _ | .cmdFr50hz _ | .cmdFr60hz _ | .cmdFrReserved _ => .cmd8 .fr
  | .cmdImExternal _ | .cmdImInternalTemp _ => .cmd8 .im
  | .cmdReservedHi _ => .cmd8 .reservedHi

/-- The byte that holds a host access word. -/
def haByte (write : Bool) (off : BitVec 5) : Byte := 0#2 ++ haWord write off

/-- The four bytes of a word in lane order (R40). -/
def laneBytes (w : Word) : List Byte :=
  [w.extractLsb' 0 8, w.extractLsb' 8 8, w.extractLsb' 16 8, w.extractLsb' 24 8]

/-- The four bytes of a word in wire order (R44). -/
def wireBytes (w : Word) : List Byte :=
  [w.extractLsb' 24 8, w.extractLsb' 16 8, w.extractLsb' 8 8, w.extractLsb' 0 8]

/-- HOST_WR of a register as bytes (R50). -/
def hostWriteBytes (r : HostReg) (data : Word) : List Byte := haByte true r.offset :: laneBytes data

/-- HOST_RD of a register as bytes (R50). -/
def hostReadBytes (r : HostReg) : List Byte := [haByte false r.offset]

/-- The bytes of an instruction in its format. -/
def encode : Instr → List Byte
  | .wrCtrl data => hostWriteBytes .ctrl data
  | .wrStatus data => hostWriteBytes .status data
  | .wrAddr data => hostWriteBytes .addr data
  | .wrCmd data => hostWriteBytes .cmd data
  | .wrTimeout data => hostWriteBytes .timeout data
  | .wrRaw data => hostWriteBytes .raw data
  | .wrResult data => hostWriteBytes .result data
  | .wrTickcnt data => hostWriteBytes .tickcnt data
  | .rdCtrl => hostReadBytes .ctrl
  | .rdStatus => hostReadBytes .status
  | .rdAddr => hostReadBytes .addr
  | .rdCmd => hostReadBytes .cmd
  | .rdTimeout => hostReadBytes .timeout
  | .rdRaw => hostReadBytes .raw
  | .rdResult => hostReadBytes .result
  | .rdTickcnt => hostReadBytes .tickcnt
  | .busWriteCmd a payload => [brwWord a false, payload]
  | .busRead4 a => [brwWord a true]
  | .decPosovf low => wireBytes (0xC0#8 ++ low)
  | .decNegovf low => wireBytes (0x3F#8 ++ low)
  | .decNormal marker data sub => wireBytes (marker ++ data ++ sub)
  | .cmdSpd1x b | .cmdSpd2x b => [b]
  | .cmdFr5060hz b | .cmdFr50hz b | .cmdFr60hz b | .cmdFrReserved b => [b]
  | .cmdImExternal b | .cmdImInternalTemp b => [b]
  | .cmdReservedHi b => [b]

/-! ## A word of the opcode table, without its channel -/

/-- The format a bare table word is read in. The table's byte formats overlap, so the first row in the table's order
that the word matches is taken: HOSTACC, then BUSREQ (which matches every byte). Log 5. -/
def tableFormat (nbits w : Nat) : Option Format :=
  if nbits = 8 then
    if w < 64 ∧ w % 4 = 0 then some .hostAcc else if w < 256 then some .busReq else none
  else if nbits = 32 then
    if w < 2 ^ 32 then some .raw32 else none
  else none

/-- The bytes of a bare table word as its channel carries them, with operand bytes of zeros after it. -/
def tableBytes (f : Format) (w : Nat) : List Byte :=
  match f with
  | .raw32 => wireBytes (BitVec.ofNat 32 w)
  | .hostAcc | .busReq | .cmd8 _ => [BitVec.ofNat 8 w, 0#8, 0#8, 0#8, 0#8]

/-- The instruction the decoder reads from a bare table word. -/
def decodeTableWord (nbits w : Nat) : Option Instr :=
  match tableFormat nbits w with
  | none => none
  | some f =>
    match decode f (tableBytes f w) with
    | .ok (i, _) => some i
    | .error _ => none

end Sys2Proof
end

