-- ==== Sys2Proof/Machine/State.lean ====
section
/-! DEFINITION. The state of the ADCC (R15) as plain data, the reasons a step can stop, and the state after reset. -/

namespace Sys2Proof.Machine

/-- STATE, the sequencer (R16, R58). Code 7 is never produced, so it has no constructor (log 15). -/
inductive SeqState where
  | idle | commandSent | awaitingConversion | reading | done | timeout | error
  deriving DecidableEq, Repr

/-- The status a command write is answered with, and WSTAT (R18, R60). Codes 5 to 7 are never produced (log 15). -/
inductive BusStatus where
  | success | payloadTooLong | addressNack | dataNack | otherFailure
  deriving DecidableEq, Repr

/-- OVF, the overflow flag (R19, R59). Code 11 is never produced (log 15). -/
inductive Ovf where
  | none | positive | negative
  deriving DecidableEq, Repr

/-- The answer to a read attempt: 0 to 4 bytes in wire order, the first received first (R66, R91). -/
inductive ReadAnswer where
  | noData
  | one (b0 : Byte)
  | two (b0 b1 : Byte)
  | three (b0 b1 b2 : Byte)
  | four (b0 b1 b2 b3 : Byte)
  deriving DecidableEq, Repr

/-- The events of R7, each one atomic step. A host access carries the offset and the number of bytes the host asks
for, so that the accesses R39 refuses can be presented too. -/
inductive Event where
  | hostWr (off n : Nat) (data : Word)
  | hostRd (off n : Nat)
  | busWriteResp (status : BusStatus)
  | busReadResp (answer : ReadAnswer)
  | tick
  | decode
  | reset
  deriving DecidableEq, Repr

/-- A request the controller puts on the serial bus (R5, R63): a command write of one byte, or a read attempt, which
always asks for 4 bytes. -/
inductive BusRequest where
  | write (a : BusAddr) (payload : Byte)
  | read4 (a : BusAddr)
  deriving DecidableEq, Repr

/-- A retired bus transaction, as the history records it (R49). -/
inductive BusRecord where
  | write (a : BusAddr) (payload : Byte) (status : BusStatus)
  | read (a : BusAddr) (bytes : List Byte)
  deriving DecidableEq, Repr

/-- The word a host read returned, and the register it was read from (R7, R50). -/
structure HostRead where
  reg : HostReg
  data : Word
  deriving DecidableEq, Repr

/-- The state. The first fifteen fields are the table of R15, whole; the last four are the model's own and no register
of the block (log 1, log 4). -/
structure State where
  /-- STATE (R16) -/
  state : SeqState
  /-- POLLWAIT (R17) -/
  pollWait : Bool
  /-- WSTAT (R18) -/
  wstat : BusStatus
  /-- OVF (R19) -/
  ovf : Ovf
  /-- START_ERR (R20) -/
  startErr : Bool
  /-- ADDR (R21) -/
  addr : BusAddr
  /-- CMD (R22) -/
  cmd : Byte
  /-- TIMEOUT (R23) -/
  timeout : BitVec 16
  /-- REQ_ADDR (R24) -/
  reqAddr : BusAddr
  /-- REQ_CMD (R25) -/
  reqCmd : Byte
  /-- REQ_TIMEOUT (R26) -/
  reqTimeout : BitVec 16
  /-- SR, the 4-byte shift register (R27) -/
  sr : Word
  /-- RAW (R28) -/
  raw : Word
  /-- RESULT (R29) -/
  result : Word
  /-- TICKCNT (R30) -/
  tickcnt : BitVec 17
  /-- the events of the environment not yet taken, oldest first (R7; log 1) -/
  inputs : List Event
  /-- the retired bus transactions, oldest first (R49) -/
  history : List BusRecord
  /-- the bus requests issued, oldest first (R11; log 4) -/
  issued : List BusRequest
  /-- the words returned to the host, oldest first (R7, R50; log 4) -/
  hostReads : List HostRead
  deriving DecidableEq, Repr

/-- R13(2): the machine is stuck, because no event is left to take and the controller has no step of its own. The ADCC
has no fault state; these say what the environment would have to do. -/
inductive Fault where
  /-- raised by `step` with no event left while a bus request is outstanding (R134, duty F1). Safe: the model stops
  where the block waits. -/
  | awaitingBusAnswer
  /-- raised by `step` with no event left in the poll wait (R134, duty F2). Safe: the model stops where the block
  waits. -/
  | awaitingTick
  /-- raised by `step` with no event left in Idle or a terminal state, which only the host or RESET leaves (R121).
  Safe: the model stops where the block is stable. -/
  | awaitingHost
  deriving DecidableEq, Repr

/-- R13(1): the host made an access to which the ADCC's contract gives no meaning (R39). -/
inductive Refusal where
  /-- raised by `exec` for an instruction that has no meaning yet. Safe: the model claims nothing of it. -/
  | notModelled (mnemonic : String)
  /-- raised by a host access event whose width is not 32 bits (R39). Safe: no claim is made about the access. -/
  | accessWidth
  /-- raised by a host access event outside the 32-byte window (R39). Safe: no claim is made about the access. -/
  | outsideWindow
  /-- raised by a host access event with `off[1:0] != 00` (R39). Safe: no claim is made about the access. -/
  | misalignedOffset
  deriving DecidableEq, Repr

/-- The machine right after reset: every element at the value of R127, nothing pending and nothing observed. -/
def State.reset : State where
  state := .idle
  pollWait := false
  wstat := .success
  ovf := .none
  startErr := false
  addr := Config.addrReset
  cmd := 0x00#8
  timeout := 0#16
  reqAddr := 0x00#7
  reqCmd := 0x00#8
  reqTimeout := 0#16
  sr := 0x00000000#32
  raw := 0x00000000#32
  result := 0x00000000#32
  tickcnt := 0#17
  inputs := []
  history := []
  issued := []
  hostReads := []

end Sys2Proof.Machine
end

