-- ==== Sys2Proof/Machine/Flags.lean ====
section
/-! DEFINITION. The codes of STATE, OVF and WSTAT, the derived flags BUSY and CYCLE_END, the STATUS word, and the
outstanding bus request. -/

namespace Sys2Proof.Machine

/-- The 3-bit code of STATE (R58). -/
def seqCode : SeqState → BitVec 3
  | .idle => 0#3
  | .commandSent => 1#3
  | .awaitingConversion => 2#3
  | .reading => 3#3
  | .done => 4#3
  | .timeout => 5#3
  | .error => 6#3

/-- The 3-bit status code of a command write (R60). -/
def statusCode : BusStatus → BitVec 3
  | .success => 0#3
  | .payloadTooLong => 1#3
  | .addressNack => 2#3
  | .dataNack => 3#3
  | .otherFailure => 4#3

/-- The 2-bit code of the overflow flag (R59). -/
def ovfCode : Ovf → BitVec 2
  | .none => 0b00#2
  | .positive => 0b01#2
  | .negative => 0b10#2

/-- A cycle is in flight in this sequencer state (R31, R58). -/
def SeqState.inFlight : SeqState → Bool
  | .commandSent | .awaitingConversion | .reading => true
  | .idle | .done | .timeout | .error => false

/-- This sequencer state is terminal (R31, R58). -/
def SeqState.isTerminal : SeqState → Bool
  | .done | .timeout | .error => true
  | .idle | .commandSent | .awaitingConversion | .reading => false

/-- BUSY (R31). -/
def State.busy (s : State) : Bool := s.state.inFlight

/-- CYCLE_END, the level output of the block (R31, R120). -/
def State.cycleEnd (s : State) : Bool := s.state.isTerminal

/-- The word RD_STATUS returns (R52, R78): BUSY, START_ERR, OVF, WSTAT, a reserved 0, POLLWAIT, STATE. -/
def State.statusWord (s : State) : Word :=
  (BitVec.ofBool s.busy ++ BitVec.ofBool s.startErr ++ ovfCode s.ovf ++ statusCode s.wstat ++ 0b0#1 ++
    BitVec.ofBool s.pollWait ++ seqCode s.state).setWidth 32

/-- The poll wait: the block waits for a TICK (R17, R94). -/
def State.inPollWait (s : State) : Bool := s.state == .awaitingConversion && s.pollWait

/-- A read attempt is outstanding (R17, R32). -/
def State.readPending (s : State) : Bool := s.state == .awaitingConversion && !s.pollWait

/-- The outstanding bus request, derived from STATE and POLLWAIT (R32). -/
def State.outstanding (s : State) : Option BusRequest :=
  match s.state with
  | .commandSent => some (.write s.reqAddr s.reqCmd)
  | .awaitingConversion => if s.pollWait then none else some (.read4 s.reqAddr)
  | .idle | .reading | .done | .timeout | .error => none

end Sys2Proof.Machine
end

