-- ==== Sys2Proof/Machine/Operands.lean ====
section
/-! DEFINITION. The values operands have: the registers as the host sees them, byte lanes, the bytes of a read answer,
the shift register's new value, and the sample decoder's comparator and extractor. -/

namespace Sys2Proof.Machine

/-! ## The host window (R37, R40, R42) -/

/-- The 32-bit value a host register reads as: reserved bits read 0, and CTRL reads 0 (R42, R77 to R84). -/
def State.hostValue (s : State) : HostReg → Word
  | .ctrl => 0x00000000#32
  | .status => s.statusWord
  | .addr => s.addr.setWidth 32
  | .cmd => s.cmd.setWidth 32
  | .timeout => s.timeout.setWidth 32
  | .raw => s.raw
  | .result => s.result
  | .tickcnt => s.tickcnt.setWidth 32

/-- Byte lane `i` of a register value: bits `[8i+7:8i]` (R40). -/
def byteLane (v : Word) (i : Fin 4) : Byte := v.extractLsb' (8 * i.val) 8

/-! ## Bus answers and the 4-byte shift register -/

/-- The bytes of a read answer in wire order (R91). -/
def ReadAnswer.bytes : ReadAnswer → List Byte
  | .noData => []
  | .one b0 => [b0]
  | .two b0 b1 => [b0, b1]
  | .three b0 b1 b2 => [b0, b1, b2]
  | .four b0 b1 b2 b3 => [b0, b1, b2, b3]

/-- ShiftIn1 (R98): a byte enters at the least significant end and the most significant byte leaves. -/
def shiftIn1 (sr : Word) (b : Byte) : Word := (sr <<< 8) ||| b.setWidth 32

/-- ShiftIn4 (R99): the four bytes of a successful read, in wire order. -/
def shiftIn4 (sr : Word) (b0 b1 b2 b3 : Byte) : Word :=
  shiftIn1 (shiftIn1 (shiftIn1 (shiftIn1 sr b0) b1) b2) b3

/-- The payload a request carries: the command byte of a write, nothing for a read attempt (R63). -/
def BusRequest.payload : BusRequest → List Byte
  | .write _ payload => [payload]
  | .read4 _ => []

/-- The bus request word of a request (R63). -/
def BusRequest.brw : BusRequest → Byte
  | .write a _ => brwWord a false
  | .read4 a => brwWord a true

/-- The instruction a request is (R12(b), R63). -/
def BusRequest.instr : BusRequest → Instr
  | .write a payload => .busWriteCmd a payload
  | .read4 a => .busRead4 a

/-! ## The overflow-flag comparator (R103) -/

/-- The MSB byte of a raw sample (R14, R103). -/
def msbByte (w : Word) : Byte := w.extractLsb' 24 8

/-- POS: the MSB byte equals 0xC0, all 8 bits compared (R103). -/
def posFlag (w : Word) : Bool := msbByte w == 0xC0#8

/-- NEG: the MSB byte equals 0x3F, all 8 bits compared (R103). -/
def negFlag (w : Word) : Bool := msbByte w == 0x3F#8

/-! ## The sign-bit extractor (R106) -/

/-- `asr32` (R10): the arithmetic shift right, rounding toward minus infinity. -/
def asr32 (v : Word) (n : Nat) : Word := v.sshiftRight n

/-- The three steps of R106: clear the marker, shift left by one, arithmetic shift right by 8. -/
def extractSample (w : Word) : Word := asr32 ((w &&& 0x7FFFFFFF#32) <<< 1) 8

/-- `Enc` (R62): a 24-bit value and seven sub-LSB bits as a raw-sample word, the marker 1 for a value of at least 0. -/
def encSample (v : Int) (sub : BitVec 7) : Word :=
  BitVec.ofBool (decide (0 ≤ v)) ++ BitVec.ofInt 24 v ++ sub

/-! ## The counter (R96) -/

/-- `TICKCNT > zext_17(REQ_TIMEOUT)`, unsigned (R93, R96). -/
def exceedsBudget (count : BitVec 17) (budget : BitVec 16) : Bool := (budget.setWidth 17).ult count

end Sys2Proof.Machine
end

