-- ==== Sys2Proof/Machine/Ops.lean ====
section
/-! DEFINITION. The shared operations over the state: issuing a request, recording a transaction, returning a word to
the host, entering a terminal state and leaving one. -/

namespace Sys2Proof.Machine

/-- `issue` (R11): the request goes out on the bus. That it is outstanding is derived from STATE and POLLWAIT (R32);
what is kept is that it was issued. -/
def State.issue (s : State) (r : BusRequest) : State := { s with issued := s.issued ++ [r] }

/-- `record` (R49): the transaction joins the history in the step that retires it. -/
def State.record (s : State) (r : BusRecord) : State := { s with history := s.history ++ [r] }

/-- A host read returns the register's value and changes no register (R41). -/
def State.returnToHost (s : State) (r : HostReg) : State :=
  { s with hostReads := s.hostReads ++ [⟨r, s.hostValue r⟩] }

/-- The two exceptions of the block (R11, R113): terminal result states, which transfer control nowhere. -/
inductive CycleError where
  | busWriteFailure (code : BusStatus)
  | conversionTimeout
  deriving DecidableEq, Repr

/-- `raise` (R11, R121): entry to Error with the cause in WSTAT (R114), or to Timeout (R116). Nothing is saved and
nothing else changes: there is no mode, mask, stack or vector. -/
def State.raise (s : State) : CycleError → State
  | .busWriteFailure code => { s with state := .error, wstat := code }
  | .conversionTimeout => { s with state := .timeout }

/-- An accepted START (R69): the request is latched, the cycle's counters cleared, and BUS_WRITE_CMD issued (R85). It
is also the only way out of a terminal state but RESET (R122); RAW, RESULT, OVF and START_ERR are kept. -/
def State.beginCycle (s : State) : State :=
  { s with
    reqAddr := s.addr
    reqCmd := s.cmd
    reqTimeout := s.timeout
    tickcnt := 0#17
    wstat := .success
    pollWait := false
    state := .commandSent }.issue (.write s.addr s.cmd)

/-- A START request (R69): a caller error while BUSY (R118), else the start of a cycle. -/
def State.requestStart (s : State) : State :=
  if s.busy then { s with startErr := true } else s.beginCycle

/-- RESET (R127): every state element goes to its reset value. The observations and the environment's later events are
no state elements and stay (log 4). -/
def State.applyReset (s : State) : State :=
  { State.reset with
    inputs := s.inputs
    history := s.history
    issued := s.issued
    hostReads := s.hostReads }

end Sys2Proof.Machine
end

