-- ==== Sys2Proof/Machine/BusTransaction.lean ====
section
/-! DEFINITION. The two bus transactions the controller issues (R85, R90), and the steps that take their answers and
the polling tick (R87, R88, R92, R93, R95). -/

namespace Sys2Proof.Machine

/-- BUS_WRITE_CMD (R85): one command write of one byte goes out; no flag is written at issue. The accepted START runs
it (R69). Log 16. -/
def execBusWriteCmd (a : BusAddr) (payload : Byte) (s : State) : Host.Outcome State Fault Refusal :=
  .next (s.issue (.write a payload))

/-- BUS_READ4 (R90): one read attempt of 4 bytes goes out; no flag is written at issue. R87 and R95 run it.
Log 16. -/
def execBusRead4 (a : BusAddr) (s : State) : Host.Outcome State Fault Refusal :=
  .next (s.issue (.read4 a))

/-- BUS_WRITE_RESP(s) (R87, R88), enabled in CommandSent; in any other state the answer is dropped (R128). -/
def takeWriteAnswer (status : BusStatus) (s : State) : State :=
  if s.state = .commandSent then
    let s := s.record (.write s.reqAddr s.reqCmd status)
    if status = .success then
      { s with wstat := .success, state := .awaitingConversion, pollWait := false }.issue (.read4 s.reqAddr)
    else s.raise (.busWriteFailure status)
  else s

/-- A failed read attempt (R93): count, compare the new count with the budget, then either ConversionTimeout or the
wait for one tick. The bytes are discarded. -/
def State.failAttempt (s : State) : State :=
  let s := { s with tickcnt := s.tickcnt + 1#17 }
  if exceedsBudget s.tickcnt s.reqTimeout then s.raise .conversionTimeout else { s with pollWait := true }

/-- BUS_READ_RESP(bytes) (R92, R93), enabled while a read attempt is outstanding; in any other state the answer is
dropped (R128). -/
def takeReadAnswer (answer : ReadAnswer) (s : State) : State :=
  if s.readPending then
    let s := s.record (.read s.reqAddr answer.bytes)
    match answer with
    | .four b0 b1 b2 b3 => { s with sr := shiftIn4 s.sr b0 b1 b2 b3, state := .reading }
    | .noData | .one _ | .two _ _ | .three _ _ _ => s.failAttempt
  else s

/-- TICK (R95): ends the poll wait and issues the retry; anywhere else it is discarded. -/
def takeTick (s : State) : State :=
  if s.inPollWait then { s with pollWait := false }.issue (.read4 s.reqAddr) else s

end Sys2Proof.Machine
end

