-- ==== Sys2Proof/Machine/CommandByte.lean ====
section
/-! DEFINITION. The command byte (R56): its fields, its composition, and the meanings of the nine CMD8 rows. A CMD8 row
is a "field value of the command byte, not an operation": the controller neither validates nor interprets the byte
(R54, R65(3)), it stores and transmits it as written, so a field value changes no state of the block (log 7). -/

namespace Sys2Proof.Machine

/-- FR, the rejection frequency a command byte selects (R56). -/
inductive Rejection where
  | hz50and60 | hz50 | hz60 | reserved
  deriving DecidableEq, Repr

/-- The fields of a command byte (R56). -/
structure CommandFields where
  /-- SPD, bit 0: 2x speed -/
  speed2x : Bool
  /-- FR, bits 2:1 -/
  rejection : Rejection
  /-- IM, bit 3: the internal temperature sensor -/
  internalTemp : Bool
  /-- bits 7:4, without a meaning in the source -/
  reservedHi : BitVec 4
  deriving DecidableEq, Repr

/-- FR written bit 2 first (R56). -/
def rejectionCode : Rejection → BitVec 2
  | .hz50and60 => 0b00#2
  | .hz50 => 0b01#2
  | .hz60 => 0b10#2
  | .reserved => 0b11#2

/-- The rejection frequency a 2-bit FR value selects (R56). -/
def rejectionOf (fr : BitVec 2) : Rejection :=
  if fr = 0b00#2 then .hz50and60 else if fr = 0b01#2 then .hz50 else if fr = 0b10#2 then .hz60 else .reserved

/-- What a command byte selects (R56). -/
def commandFields (b : Byte) : CommandFields where
  speed2x := b.getLsbD 0
  rejection := rejectionOf (b.extractLsb' 1 2)
  internalTemp := b.getLsbD 3
  reservedHi := b.extractLsb' 4 4

/-- The command byte with the given fields (R56). -/
def commandByte (f : CommandFields) : Byte :=
  f.reservedHi ++ BitVec.ofBool f.internalTemp ++ rejectionCode f.rejection ++ BitVec.ofBool f.speed2x

/-- A field value takes effect in the device only: the block carries the byte unchanged (R56, R65(3)). -/
def State.carryFieldValue (s : State) : State := s

/-- CMD_SPD_1X (R56). -/
def execCmdSpd1x (_b : Byte) (s : State) : Host.Outcome State Fault Refusal := .next s.carryFieldValue

/-- CMD_SPD_2X (R56). -/
def execCmdSpd2x (_b : Byte) (s : State) : Host.Outcome State Fault Refusal := .next s.carryFieldValue

/-- CMD_FR_50_60HZ (R56). -/
def execCmdFr5060hz (_b : Byte) (s : State) : Host.Outcome State Fault Refusal := .next s.carryFieldValue

/-- CMD_FR_50HZ (R56). -/
def execCmdFr50hz (_b : Byte) (s : State) : Host.Outcome State Fault Refusal := .next s.carryFieldValue

/-- CMD_FR_60HZ (R56). -/
def execCmdFr60hz (_b : Byte) (s : State) : Host.Outcome State Fault Refusal := .next s.carryFieldValue

/-- CMD_FR_RESERVED (R56): transmitted as written (R65(3)). -/
def execCmdFrReserved (_b : Byte) (s : State) : Host.Outcome State Fault Refusal := .next s.carryFieldValue

/-- CMD_IM_EXTERNAL (R56). -/
def execCmdImExternal (_b : Byte) (s : State) : Host.Outcome State Fault Refusal := .next s.carryFieldValue

/-- CMD_IM_INTERNAL_TEMP (R56). -/
def execCmdImInternalTemp (_b : Byte) (s : State) : Host.Outcome State Fault Refusal := .next s.carryFieldValue

/-- CMD_RESERVED_HI (R56): transmitted as written (R65(3)). -/
def execCmdReservedHi (_b : Byte) (s : State) : Host.Outcome State Fault Refusal := .next s.carryFieldValue

end Sys2Proof.Machine
end

