-- ==== Sys2Proof/Machine/HostRead.lean ====
section
/-! DEFINITION. The eight host reads (R77 to R84): each returns the register's 32-bit value and changes no register. -/

namespace Sys2Proof.Machine

/-- RD_CTRL (R77): returns 0 in every state. -/
def execRdCtrl (s : State) : Host.Outcome State Fault Refusal := .next (s.returnToHost .ctrl)

/-- RD_STATUS (R78): returns the STATUS word of R52. -/
def execRdStatus (s : State) : Host.Outcome State Fault Refusal := .next (s.returnToHost .status)

/-- RD_ADDR (R79): returns ADDR, not REQ_ADDR. -/
def execRdAddr (s : State) : Host.Outcome State Fault Refusal := .next (s.returnToHost .addr)

/-- RD_CMD (R80): returns CMD, not REQ_CMD. -/
def execRdCmd (s : State) : Host.Outcome State Fault Refusal := .next (s.returnToHost .cmd)

/-- RD_TIMEOUT (R81): returns TIMEOUT, not REQ_TIMEOUT. -/
def execRdTimeout (s : State) : Host.Outcome State Fault Refusal := .next (s.returnToHost .timeout)

/-- RD_RAW (R82): returns RAW; SR is never visible. -/
def execRdRaw (s : State) : Host.Outcome State Fault Refusal := .next (s.returnToHost .raw)

/-- RD_RESULT (R83): returns RESULT. -/
def execRdResult (s : State) : Host.Outcome State Fault Refusal := .next (s.returnToHost .result)

/-- RD_TICKCNT (R84): returns TICKCNT. -/
def execRdTickcnt (s : State) : Host.Outcome State Fault Refusal := .next (s.returnToHost .tickcnt)

end Sys2Proof.Machine
end

