-- ==== Sys2Proof/Machine/HostWrite.lean ====
section
/-! DEFINITION. The eight host writes (R69 to R76). -/

namespace Sys2Proof.Machine

/-- WR_CTRL (R69): bit 0 requests START; bits 31:1 are ignored, and bit 0 = 0 changes nothing. -/
def execWrCtrl (data : Word) (s : State) : Host.Outcome State Fault Refusal :=
  .next (if data.getLsbD 0 then s.requestStart else s)

/-- WR_STATUS (R70): a read-only register; no state changes. -/
def execWrStatus (_data : Word) (s : State) : Host.Outcome State Fault Refusal := .next s

/-- WR_ADDR (R71): `ADDR <- data[6:0]`. -/
def execWrAddr (data : Word) (s : State) : Host.Outcome State Fault Refusal :=
  .next { s with addr := data.extractLsb' 0 7 }

/-- WR_CMD (R72): `CMD <- data[7:0]`, reserved values stored as written (R65). -/
def execWrCmd (data : Word) (s : State) : Host.Outcome State Fault Refusal :=
  .next { s with cmd := data.extractLsb' 0 8 }

/-- WR_TIMEOUT (R73): `TIMEOUT <- data[15:0]`. -/
def execWrTimeout (data : Word) (s : State) : Host.Outcome State Fault Refusal :=
  .next { s with timeout := data.extractLsb' 0 16 }

/-- WR_RAW (R74): a read-only register; no state changes. -/
def execWrRaw (_data : Word) (s : State) : Host.Outcome State Fault Refusal := .next s

/-- WR_RESULT (R75): a read-only register; no state changes. -/
def execWrResult (_data : Word) (s : State) : Host.Outcome State Fault Refusal := .next s

/-- WR_TICKCNT (R76): a read-only register; no state changes. -/
def execWrTickcnt (_data : Word) (s : State) : Host.Outcome State Fault Refusal := .next s

end Sys2Proof.Machine
end

