-- ==== Sys2Proof/Machine/SampleDecoder.lean ====
section
/-! DEFINITION. The three decode cases (R104 to R106). Their operand is SR (log 9); the DECODE step around them writes
RAW and STATE (R108, Machine/Sequencer.lean). -/

namespace Sys2Proof.Machine

/-- DEC_POSOVF (R104): RESULT is POS_SAT and OVF positive; the lower 24 bits of SR are ignored. -/
def execDecPosovf (_low : BitVec 24) (s : State) : Host.Outcome State Fault Refusal :=
  .next { s with result := Config.posSat, ovf := .positive }

/-- DEC_NEGOVF (R105): RESULT is NEG_SAT and OVF negative; the lower 24 bits of SR are ignored. -/
def execDecNegovf (_low : BitVec 24) (s : State) : Host.Outcome State Fault Refusal :=
  .next { s with result := Config.negSat, ovf := .negative }

/-- DEC_NORMAL (R106): RESULT is the sign-extended 24-bit code of SR and OVF none. -/
def execDecNormal (_marker : BitVec 1) (_data : BitVec 24) (_sub : BitVec 7) (s : State) :
    Host.Outcome State Fault Refusal :=
  .next { s with result := extractSample s.sr, ovf := .none }

end Sys2Proof.Machine
end

