-- ==== Sys2Proof/Machine/Dispatch.lean ====
section
/-! DEFINITION. One arm per row of the opcode table. -/

namespace Sys2Proof.Machine

def exec (i : Instr) (s : State) : Host.Outcome State Fault Refusal :=
  match i with
  | .wrCtrl data => Sys2Proof.Machine.execWrCtrl data s
  | .wrStatus data => Sys2Proof.Machine.execWrStatus data s
  | .wrAddr data => Sys2Proof.Machine.execWrAddr data s
  | .wrCmd data => Sys2Proof.Machine.execWrCmd data s
  | .wrTimeout data => Sys2Proof.Machine.execWrTimeout data s
  | .wrRaw data => Sys2Proof.Machine.execWrRaw data s
  | .wrResult data => Sys2Proof.Machine.execWrResult data s
  | .wrTickcnt data => Sys2Proof.Machine.execWrTickcnt data s
  | .rdCtrl => Sys2Proof.Machine.execRdCtrl s
  | .rdStatus => Sys2Proof.Machine.execRdStatus s
  | .rdAddr => Sys2Proof.Machine.execRdAddr s
  | .rdCmd => Sys2Proof.Machine.execRdCmd s
  | .rdTimeout => Sys2Proof.Machine.execRdTimeout s
  | .rdRaw => Sys2Proof.Machine.execRdRaw s
  | .rdResult => Sys2Proof.Machine.execRdResult s
  | .rdTickcnt => Sys2Proof.Machine.execRdTickcnt s
  | .busWriteCmd a payload => Sys2Proof.Machine.execBusWriteCmd a payload s
  | .busRead4 a => Sys2Proof.Machine.execBusRead4 a s
  | .decPosovf low => Sys2Proof.Machine.execDecPosovf low s
  | .decNegovf low => Sys2Proof.Machine.execDecNegovf low s
  | .decNormal marker data sub => Sys2Proof.Machine.execDecNormal marker data sub s
  | .cmdSpd1x b => Sys2Proof.Machine.execCmdSpd1x b s
  | .cmdSpd2x b => Sys2Proof.Machine.execCmdSpd2x b s
  | .cmdFr5060hz b => Sys2Proof.Machine.execCmdFr5060hz b s
  | .cmdFr50hz b => Sys2Proof.Machine.execCmdFr50hz b s
  | .cmdFr60hz b => Sys2Proof.Machine.execCmdFr60hz b s
  | .cmdFrReserved b => Sys2Proof.Machine.execCmdFrReserved b s
  | .cmdImExternal b => Sys2Proof.Machine.execCmdImExternal b s
  | .cmdImInternalTemp b => Sys2Proof.Machine.execCmdImInternalTemp b s
  | .cmdReservedHi b => Sys2Proof.Machine.execCmdReservedHi b s

end Sys2Proof.Machine
end

