-- ==== Sys2Proof/Machine/Sequencer.lean ====
section
/-! DEFINITION. The steps around the instructions: fetching a host access word, the DECODE step, taking one event, the
controller's own turn, and placing one instruction where the next step runs it. -/

namespace Sys2Proof.Machine

/-- A host access (R38, R39, R50): a 32-bit, word-aligned access inside the window is the host operation its access
word selects; every other access is refused, under the first name that applies (log 20). -/
def takeHostAccess (write : Bool) (off n : Nat) (data : Word) (s : State) : Host.Outcome State Fault Refusal :=
  if n ≠ 4 then .refused .accessWidth
  else if Config.hwin ≤ off then .refused .outsideWindow
  else
    match decodeHostAcc (haWord write (BitVec.ofNat 5 off)) data with
    | some i => exec i s
    | none => .refused .misalignedOffset

/-- DECODE (R108): RAW takes SR, the decode case SR selects runs, and the cycle is Done. It is enabled in Reading; a
turn given to it elsewhere does nothing (log 2). -/
def runDecode (s : State) : Host.Outcome State Fault Refusal :=
  if s.state = .reading then
    match exec (decodeRaw32 s.sr) { s with raw := s.sr } with
    | .next t => .next { t with state := .done }
    | .fault f => .fault f
    | .refused r => .refused r
  else .next s

/-- One event of R7, taken in the state it finds. -/
def takeEvent (e : Event) (s : State) : Host.Outcome State Fault Refusal :=
  match e with
  | .hostWr off n data => takeHostAccess true off n data s
  | .hostRd off n => takeHostAccess false off n 0#32 s
  | .busWriteResp status => .next (takeWriteAnswer status s)
  | .busReadResp answer => .next (takeReadAnswer answer s)
  | .tick => .next (takeTick s)
  | .decode => runDecode s
  | .reset => .next s.applyReset

/-- What the block waits for when it has no step of its own (R13(2), R121, R134). -/
def State.waitsFor (s : State) : Fault :=
  if s.inPollWait then .awaitingTick
  else if s.state = .commandSent ∨ s.state = .awaitingConversion then .awaitingBusAnswer
  else .awaitingHost

/-- The controller's turn when no event is left: DECODE is its one autonomous step (R6(2), R108); in every other state
it is stuck (R13(2); log 3). -/
def controllerTurn (s : State) : Host.Outcome State Fault Refusal :=
  if s.state = .reading then runDecode s else .fault s.waitsFor

/-- The host write that requests START (R68, R69). -/
def startEvent : Event := .hostWr 0 4 0x00000001#32

/-- `s` with the instruction of a bare table word where the next step runs it: a host access as the next event, a raw
sample in SR with DECODE the next event, and each bus transaction at the step that issues it, START for BUS_WRITE_CMD
and the TICK that ends the poll wait for BUS_READ4. Log 6. -/
def stageWord (f : Format) (w : Nat) (s : State) : State :=
  match f with
  | .hostAcc =>
    if w.testBit 5 then { s with inputs := .hostWr (w % 32) 4 0#32 :: s.inputs }
    else { s with inputs := .hostRd (w % 32) 4 :: s.inputs }
  | .busReq =>
    let a := (BitVec.ofNat 8 w).extractLsb' 1 7
    if w.testBit 0 then
      { s with state := .awaitingConversion, pollWait := true, reqAddr := a, inputs := .tick :: s.inputs }
    else { s with state := .idle, addr := a, cmd := 0#8, inputs := startEvent :: s.inputs }
  | .raw32 => { s with state := .reading, sr := BitVec.ofNat 32 w, inputs := .decode :: s.inputs }
  | .cmd8 _ => { s with state := .idle, cmd := BitVec.ofNat 8 w, inputs := startEvent :: s.inputs }

/-- `stageWord` for the format the decoder reads a bare table word in; a word it refuses is not placed. -/
def loadTableWord (nbits w : Nat) (s : State) : State :=
  match tableFormat nbits w with
  | some f => stageWord f w s
  | none => s

end Sys2Proof.Machine
end

