-- ==== Sys2Proof/Machine/Step.lean ====
section
/-! DEFINITION. One step: the next event of the environment, or the controller's own turn when none is left (log 1). -/

namespace Sys2Proof.Machine

/-- One atomic step (R7): take the oldest event not yet taken; with none left, the controller has the turn. -/
def step (s : State) : Host.Outcome State Fault Refusal :=
  match s.inputs with
  | [] => controllerTurn s
  | e :: rest => takeEvent e { s with inputs := rest }

/-- `s` with the instruction whose table word is `w` where `step` runs it next (log 6). -/
def State.withFetchWord (s : State) (nbits w : Nat) : State := loadTableWord nbits w s

end Sys2Proof.Machine
end

