-- ==== Sys2Proof/Machine/Clock.lean ====
section
/-! DEFINITION. Several events in one clock (R119): the order in which they take effect. -/

namespace Sys2Proof.Machine

/-- The one event of class (2) a clock can hold: the bus agent's answer, or DECODE (R119). -/
inductive ControllerInput where
  | writeResp (status : BusStatus)
  | readResp (answer : ReadAnswer)
  | decode
  deriving DecidableEq, Repr

/-- A host access of a clock (R7). -/
inductive HostInput where
  | write (off n : Nat) (data : Word)
  | read (off n : Nat)
  deriving DecidableEq, Repr

/-- What a cycle-level implementation sees in one clock (R7, R119). -/
structure ClockInputs where
  reset : Bool
  controller : Option ControllerInput
  tick : Bool
  host : Option HostInput
  deriving DecidableEq, Repr

/-- A class (2) input as an event. -/
def ControllerInput.event : ControllerInput → Event
  | .writeResp status => .busWriteResp status
  | .readResp answer => .busReadResp answer
  | .decode => .decode

/-- A host access as an event. -/
def HostInput.event : HostInput → Event
  | .write off n data => .hostWr off n data
  | .read off n => .hostRd off n

/-- The events of one clock in the order of R119: RESET discards every other; then the answer or DECODE, TICK, and the
host access. -/
def ClockInputs.events (c : ClockInputs) : List Event :=
  if c.reset then [.reset]
  else
    (match c.controller with
      | some k => [k.event]
      | none => []) ++
    (if c.tick then [.tick] else []) ++
    (match c.host with
      | some h => [h.event]
      | none => [])

/-- `s` with the events of one clock next to be taken. -/
def State.withClock (s : State) (c : ClockInputs) : State := { s with inputs := c.events ++ s.inputs }

/-- Take one event after another, without the controller's own turns, stopping at the first stop. -/
def takeEvents : List Event → State → Host.Outcome State Fault Refusal
  | [], s => .next s
  | e :: rest, s =>
    match takeEvent e s with
    | .next t => takeEvents rest t
    | .fault f => .fault f
    | .refused r => .refused r

/-- A whole clock at once: its events applied in the order of R119. -/
def clockStep (c : ClockInputs) (s : State) : Host.Outcome State Fault Refusal := takeEvents c.events s

end Sys2Proof.Machine
end

