-- ==== Sys2Proof/Machine/HostProgram.lean ====
section
/-! DEFINITION. The notation of host programs (R67) and the pseudo-instructions (R68). The program the host runs is a
parameter and no state of the block (R15); what it sends is the host accesses of `State.inputs`. -/

namespace Sys2Proof.Machine

/-- A line of a host program (R67), and the two lines with host-side control that R68 expands into (log 19). -/
inductive HostOp where
  /-- `WR reg, imm32` -/
  | wr (reg : HostReg) (imm : Word)
  /-- `RD reg -> name` -/
  | rd (reg : HostReg)
  /-- `L: RD STATUS -> s; if s[2:0] < 4 goto L` -/
  | readStatusUntilEnd
  /-- `if s[2:0] = 4 then RD RESULT -> r`, with `s` the STATUS word last read -/
  | readResultIfDone
  deriving DecidableEq, Repr

/-- The pseudo-instructions (R68). -/
inductive PseudoOp where
  | start
  | waitEnd
  | convert (a c t : Word)
  | getSample
  deriving DecidableEq, Repr

/-- What a pseudo-instruction expands into (R68). -/
def PseudoOp.expand : PseudoOp → List HostOp
  | .start => [.wr .ctrl 0x1#32]
  | .waitEnd => [.readStatusUntilEnd]
  | .convert a c t => [.wr .addr a, .wr .cmd c, .wr .timeout t, .wr .ctrl 0x1#32, .readStatusUntilEnd]
  | .getSample => [.readStatusUntilEnd, .readResultIfDone]

/-- The instruction a line is (R67, column "operation"). -/
def HostOp.instr : HostOp → Instr
  | .wr reg imm => writeInstr reg imm
  | .rd reg => readInstr reg
  | .readStatusUntilEnd => readInstr .status
  | .readResultIfDone => readInstr .result

/-- The event a line sends to the block: a 32-bit access at the register's offset (R67). -/
def HostOp.event : HostOp → Event
  | .wr reg imm => .hostWr reg.offset.toNat 4 imm
  | .rd reg => .hostRd reg.offset.toNat 4
  | .readStatusUntilEnd => .hostRd (HostReg.offset .status).toNat 4
  | .readResultIfDone => .hostRd (HostReg.offset .result).toNat 4

/-- WAITEND goes round again: the STATE field of the word read is below 4 (R68). -/
def waitEndAgain (status : Word) : Bool := (status.extractLsb' 0 3).ult 4#3

/-- GETSAMPLE reads RESULT: the STATE field of the word read is 4, Done (R68, R131). -/
def resultReadable (status : Word) : Bool := status.extractLsb' 0 3 == 4#3

/-- The STATUS word the host read last, `s` in R68; 0 before its first read. -/
def State.lastStatus (s : State) : Word :=
  match s.hostReads.reverse.find? fun r => r.reg == .status with
  | some r => r.data
  | none => 0#32

/-- The line makes its access, given the STATUS word read last: only the guarded read of RESULT may not. -/
def HostOp.makesAccess (op : HostOp) (status : Word) : Bool :=
  match op with
  | .readResultIfDone => resultReadable status
  | .wr _ _ | .rd _ | .readStatusUntilEnd => true

/-- The lines still to run after a line's access, given the STATUS word read last. -/
def HostOp.continueWith (op : HostOp) (status : Word) (rest : List HostOp) : List HostOp :=
  match op with
  | .readStatusUntilEnd => if waitEndAgain status then .readStatusUntilEnd :: rest else rest
  | .wr _ _ | .rd _ | .readResultIfDone => rest

/-- The host's turn: it runs the next line of its program against the block and keeps what is left to run. A line that
makes no access leaves the block as it is, and so does a program that has ended. -/
def hostTurn (program : List HostOp) (s : State) : Host.Outcome (List HostOp × State) Fault Refusal :=
  match program with
  | [] => .next ([], s)
  | op :: rest =>
    if op.makesAccess s.lastStatus then
      match takeEvent op.event s with
      | .next t => .next (op.continueWith t.lastStatus rest, t)
      | .fault f => .fault f
      | .refused r => .refused r
    else .next (rest, s)

end Sys2Proof.Machine
end

