-- ==== Sys2Proof/Safety.lean ====
section
/-! DEFINITION. What claims are stated in: the invariants of R34, the accounting of bus requests, clean runs. -/

namespace Sys2Proof.Machine

/-- R34(1): POLLWAIT = 1 implies STATE = AwaitingConversion. -/
abbrev PollWaitInv (s : State) : Prop := s.pollWait = true → s.state = .awaitingConversion

/-- R34(2): TICKCNT <= REQ_TIMEOUT + 1. -/
abbrev TickBoundInv (s : State) : Prop := s.tickcnt.toNat ≤ s.reqTimeout.toNat + 1

/-- R34(3): in Timeout TICKCNT = REQ_TIMEOUT + 1, in every other state TICKCNT <= REQ_TIMEOUT. -/
abbrev TimeoutInv (s : State) : Prop :=
  (s.state = .timeout → s.tickcnt.toNat = s.reqTimeout.toNat + 1) ∧
  (s.state ≠ .timeout → s.tickcnt.toNat ≤ s.reqTimeout.toNat)

/-- R34(4): Error has a failure code in WSTAT; AwaitingConversion, Reading, Done and Timeout have WSTAT = 0. -/
abbrev WstatInv (s : State) : Prop :=
  (s.state = .error → s.wstat ≠ .success) ∧
  (s.state = .awaitingConversion ∨ s.state = .reading ∨ s.state = .done ∨ s.state = .timeout → s.wstat = .success)

/-- R34(5): CommandSent and Error have TICKCNT = 0. -/
abbrev TickZeroInv (s : State) : Prop := s.state = .commandSent ∨ s.state = .error → s.tickcnt = 0#17

/-- R34(6): OVF and RESULT agree. -/
abbrev ResultInv (s : State) : Prop :=
  (s.ovf = .positive → s.result = Config.posSat) ∧
  (s.ovf = .negative → s.result = Config.negSat) ∧
  (s.ovf = .none → -2 ^ 23 ≤ s.result.toInt ∧ s.result.toInt ≤ 2 ^ 23 - 1)

/-- The invariants of R34, all six. -/
abbrev StateInv (s : State) : Prop :=
  PollWaitInv s ∧ TickBoundInv s ∧ TimeoutInv s ∧ WstatInv s ∧ TickZeroInv s ∧ ResultInv s

/-- The request outstanding (R32) is the one issued last. -/
abbrev LastIssuedInv (s : State) : Prop := s.outstanding.isSome = true → s.issued.getLast? = s.outstanding

/-- The number of requests outstanding, 0 or 1 (R32). -/
def State.openRequests (s : State) : Nat := if s.outstanding.isSome then 1 else 0

/-- The number of command writes issued. -/
def State.writesIssued (s : State) : Nat := s.issued.countP fun r => r matches .write _ _

/-- The number of read attempts issued. -/
def State.readsIssued (s : State) : Nat := s.issued.countP fun r => r matches .read4 _

/-- The registers of R15 as one value: the state without the environment's events and the observations. -/
def State.registers (s : State) : State := { s with inputs := [], history := [], issued := [], hostReads := [] }

/-- `e` is a START the block accepts in `s` (R69): a 32-bit write of CTRL with bit 0 = 1 while not BUSY. -/
def acceptsStart (s : State) (e : Event) : Bool :=
  match e with
  | .hostWr off n data => off == 0 && n == 4 && data.getLsbD 0 && !s.busy
  | .hostRd _ _ | .busWriteResp _ | .busReadResp _ | .tick | .decode | .reset => false

/-- A short answer followed by the tick that ends the poll wait, for each answer in turn (R93, R95). -/
def failThenTick : List ReadAnswer → List Event
  | [] => []
  | a :: rest => .busReadResp a :: .tick :: failThenTick rest

/-- A host access the block takes (R38): 32 bits, at a word offset of the window. -/
def Event.isHostAccess : Event → Bool
  | .hostWr off n _ => n == 4 && off < 32 && off % 4 == 0
  | .hostRd off n => n == 4 && off < 32 && off % 4 == 0
  | .busWriteResp _ | .busReadResp _ | .tick | .decode | .reset => false

/-- `CycleAmong cycle events`: `events` are the steps `cycle` of a conversion cycle in their order, with host accesses
and discarded ticks among them, which R137 does not count. A tick is discarded where the cycle's next step is not the
tick that ends a poll wait (R95). The last event is the cycle's last step. -/
inductive CycleAmong : List Event → List Event → Prop where
  | finished : CycleAmong [] []
  | cycleStep {cycle events : List Event} (e : Event) : CycleAmong cycle events →
      CycleAmong (e :: cycle) (e :: events)
  | hostAccess {e : Event} {cycle events : List Event} (h : Event) : h.isHostAccess = true →
      CycleAmong (e :: cycle) events → CycleAmong (e :: cycle) (h :: events)
  | discardedTick {e : Event} {cycle events : List Event} : e ≠ .tick →
      CycleAmong (e :: cycle) events → CycleAmong (e :: cycle) (.tick :: events)

/-- The steps of a cycle whose attempt after the failures `fails` succeeds (R97(2)): the write answer, the failures
with their ticks, the four bytes and DECODE. -/
def successCycle (fails : List ReadAnswer) (b0 b1 b2 b3 : Byte) : List Event :=
  .busWriteResp .success :: (failThenTick fails ++ [.busReadResp (.four b0 b1 b2 b3), .decode])

/-- The steps of a cycle that times out (R97(3)): the write answer, the failures with their ticks, and the last
failure. -/
def timeoutCycle (fails : List ReadAnswer) (last : ReadAnswer) : List Event :=
  .busWriteResp .success :: (failThenTick fails ++ [.busReadResp last])

/-- The read attempts to `a` with these answers, as the history records them (R49). -/
def readRecords (a : BusAddr) (answers : List ReadAnswer) : List BusRecord := answers.map fun r => .read a r.bytes

/-- A request with its command byte hidden. -/
def BusRequest.hideCommand : BusRequest → BusRequest
  | .write a _ => .write a 0#8
  | .read4 a => .read4 a

/-- A record with its command byte hidden. -/
def BusRecord.hideCommand : BusRecord → BusRecord
  | .write a _ status => .write a 0#8 status
  | .read a bytes => .read a bytes

/-- What the host got, with the words read from CMD hidden. -/
def HostRead.hideCommand (r : HostRead) : HostRead := if r.reg = .cmd then { r with data := 0#32 } else r

/-- The state with every trace of the command byte hidden: what is left is what the controller may depend on
(R54, R56). -/
def State.hideCommand (s : State) : State :=
  { s with
    cmd := 0#8
    reqCmd := 0#8
    history := s.history.map BusRecord.hideCommand
    issued := s.issued.map BusRequest.hideCommand
    hostReads := s.hostReads.map HostRead.hideCommand }

/-- A clean end of a run (R13(3), R118): no caller error has been recorded. -/
abbrev CleanEnd (s : State) : Prop := s.startErr = false

/-- The states a run can be in: reset with any events ahead, and every state a step leads to from one; the environment
may add events at any time. -/
inductive Reachable : State → Prop where
  | init (inputs : List Event) : Reachable { State.reset with inputs := inputs }
  | step {s t : State} : Reachable s → step s = .next t → Reachable t
  | environment {s : State} (more : List Event) : Reachable s → Reachable { s with inputs := s.inputs ++ more }

end Sys2Proof.Machine
end

