-- ==== Sys2Proof/Certificates/Slice0/Obligations.lean ====
section
/-! DEFINITION. The statements for the provers. Each docstring names the rule of spec/ the statement formalises; where a
clause is an inference the spec marks [derived], or the model's own choice, the docstring says so. -/

open Sys2Proof Sys2Proof.Machine

/-! ## Encodings -/

/-- R50: the 16 host access words select the 16 host operations, and an HA with `off[1:0] != 00` selects none. -/
def Obligations.HostAccessWordsSelectOperations : Prop :=
  ∀ data : Word,
    decodeHostAcc 0x20#6 data = some (.wrCtrl data) ∧ decodeHostAcc 0x24#6 data = some (.wrStatus data) ∧
    decodeHostAcc 0x28#6 data = some (.wrAddr data) ∧ decodeHostAcc 0x2C#6 data = some (.wrCmd data) ∧
    decodeHostAcc 0x30#6 data = some (.wrTimeout data) ∧ decodeHostAcc 0x34#6 data = some (.wrRaw data) ∧
    decodeHostAcc 0x38#6 data = some (.wrResult data) ∧ decodeHostAcc 0x3C#6 data = some (.wrTickcnt data) ∧
    decodeHostAcc 0x00#6 data = some .rdCtrl ∧ decodeHostAcc 0x04#6 data = some .rdStatus ∧
    decodeHostAcc 0x08#6 data = some .rdAddr ∧ decodeHostAcc 0x0C#6 data = some .rdCmd ∧
    decodeHostAcc 0x10#6 data = some .rdTimeout ∧ decodeHostAcc 0x14#6 data = some .rdRaw ∧
    decodeHostAcc 0x18#6 data = some .rdResult ∧ decodeHostAcc 0x1C#6 data = some .rdTickcnt ∧
    ∀ ha : BitVec 6, ha.extractLsb' 0 2 ≠ 0#2 → decodeHostAcc ha data = none

/-- A few words written out from the encodings of R50, R63, R61 with R64, and R56, read by the decoder. The layout of
HA and data as bytes is the model's (log 11). -/
def Obligations.WrittenOutWordsDecode : Prop :=
  decode .hostAcc [0b00101000#8, 0x14#8, 0x00#8, 0x00#8, 0x00#8] = .ok (.wrAddr 0x00000014#32, []) ∧
  decode .hostAcc [0b00011000#8] = .ok (.rdResult, []) ∧
  decode .hostAcc [0b00000010#8] = .error .misalignedOffset ∧
  decode .busReq [0b00101000#8, 0x04#8] = .ok (.busWriteCmd 0x14#7 0x04#8, []) ∧
  decode .busReq [0b00101001#8] = .ok (.busRead4 0x14#7, []) ∧
  decode .raw32 [0xC0#8, 0x12#8, 0x34#8, 0x56#8] = .ok (.decPosovf 0x123456#24, []) ∧
  decode .raw32 [0x3F#8, 0xFF#8, 0xFF#8, 0xFF#8] = .ok (.decNegovf 0xFFFFFF#24, []) ∧
  decode .raw32 [0x80#8, 0x01#8, 0xF4#8, 0x7F#8] = .ok (.decNormal 1#1 0x0003E8#24 0x7F#7, []) ∧
  decode (.cmd8 .fr) [0b00000100#8] = .ok (.cmdFr60hz 0x04#8, []) ∧
  decode (.cmd8 .im) [0b00001000#8] = .ok (.cmdImInternalTemp 0x08#8, [])

/-- Decoding an encoded well-formed instruction gives it back, with every operand at every value, whatever bytes
follow (formats of R50, R56, R61 with R64, R63). -/
def Obligations.DecodeOfEncodeIsIdentity : Prop :=
  ∀ (i : Instr) (rest : List Byte), wellFormed i = true → decode (formatOf i) (encode i ++ rest) = .ok (i, rest)

/-- What the decoder reads is well formed, of the format asked for, and its encoding is the bytes read. -/
def Obligations.EncodeOfDecodeIsIdentity : Prop :=
  ∀ (f : Format) (bytes rest : List Byte) (i : Instr), decode f bytes = .ok (i, rest) →
    wellFormed i = true ∧ formatOf i = f ∧ bytes = encode i ++ rest

/-- 30_encoding.md section 6: the decode case by the match and mask of each row; DEC_NORMAL exactly when neither overflow
row matches, a clause the spec marks [derived]. -/
def Obligations.SampleWordSelectsCase : Prop :=
  ∀ w : Word,
    ((∃ low, decodeRaw32 w = .decPosovf low) ↔ w &&& 0xFF000000#32 = 0xC0000000#32) ∧
    ((∃ low, decodeRaw32 w = .decNegovf low) ↔ w &&& 0xFF000000#32 = 0x3F000000#32) ∧
    ((∃ m d sub, decodeRaw32 w = .decNormal m d sub ∧ m ++ d ++ sub = w) ↔
      w &&& 0xFF000000#32 ≠ 0xC0000000#32 ∧ w &&& 0xFF000000#32 ≠ 0x3F000000#32)

/-- 30_encoding.md section 2 (the CMD8 table): the fields of a command byte say all of it, and the named single-field
values are the bytes the spec lists. -/
def Obligations.CommandByteFields : Prop :=
  (∀ b : Byte, commandByte (commandFields b) = b) ∧
  (∀ f : CommandFields, commandFields (commandByte f) = f) ∧
  (∀ b : Byte, ((commandFields b).speed2x = true ↔ b &&& 0x01#8 = 0x01#8) ∧
    ((commandFields b).internalTemp = true ↔ b &&& 0x08#8 = 0x08#8) ∧
    ((commandFields b).rejection = .hz50and60 ↔ b &&& 0x06#8 = 0x00#8) ∧
    ((commandFields b).rejection = .hz50 ↔ b &&& 0x06#8 = 0x02#8) ∧
    ((commandFields b).rejection = .hz60 ↔ b &&& 0x06#8 = 0x04#8) ∧
    ((commandFields b).rejection = .reserved ↔ b &&& 0x06#8 = 0x06#8))

/-- R58, R59, R60: the codes of STATE, OVF and the bus status. -/
def Obligations.CodesOfStatusFields : Prop :=
  (seqCode .idle = 0#3 ∧ seqCode .commandSent = 1#3 ∧ seqCode .awaitingConversion = 2#3 ∧ seqCode .reading = 3#3 ∧
    seqCode .done = 4#3 ∧ seqCode .timeout = 5#3 ∧ seqCode .error = 6#3 ∧ ∀ q, seqCode q ≠ 7#3) ∧
  (ovfCode .none = 0b00#2 ∧ ovfCode .positive = 0b01#2 ∧ ovfCode .negative = 0b10#2 ∧ ∀ f, ovfCode f ≠ 0b11#2) ∧
  (statusCode .success = 0#3 ∧ statusCode .payloadTooLong = 1#3 ∧ statusCode .addressNack = 2#3 ∧
    statusCode .dataNack = 3#3 ∧ statusCode .otherFailure = 4#3 ∧ ∀ c, (statusCode c).toNat ≤ 4) ∧
  ∀ s : State, (s.busy = true ↔ s.state = .commandSent ∨ s.state = .awaitingConversion ∨ s.state = .reading) ∧
    (s.cycleEnd = true ↔ s.state = .done ∨ s.state = .timeout ∨ s.state = .error)

/-! ## A step runs the decoded instruction -/

/-- A host access whose bytes decode to an instruction runs exactly that instruction, after the access is taken from
`inputs`. -/
def Obligations.HostAccessStepRunsDecodedInstruction : Prop :=
  ∀ (s : State) (off : Nat) (rest : List Event) (i : Instr), off < 32 →
    (∀ data : Word, s.inputs = .hostWr off 4 data :: rest →
      decode .hostAcc (haByte true (BitVec.ofNat 5 off) :: laneBytes data) = .ok (i, []) →
      step s = exec i { s with inputs := rest }) ∧
    (s.inputs = .hostRd off 4 :: rest →
      decode .hostAcc [haByte false (BitVec.ofNat 5 off)] = .ok (i, []) →
      step s = exec i { s with inputs := rest })

/-- The DECODE step runs the decode case that SR selects, with RAW <- SR before it and STATE <- Done after it (the
order of R108's pseudocode). -/
def Obligations.DecodeStepRunsSampleCase : Prop :=
  ∀ (s : State) (rest : List Event) (i : Instr), s.state = .reading → s.inputs = .decode :: rest →
    decode .raw32 (wireBytes s.sr) = .ok (i, []) →
    ∃ t, exec i { s with inputs := rest, raw := s.sr } = .next t ∧ step s = .next { t with state := .done }

/-- The steps that issue a bus request run the bus transaction of that request: an accepted START runs BUS_WRITE_CMD
after the latches are loaded (R69), a successful write answer the first BUS_READ4 (R87), a TICK in the poll wait each
later one (R95). -/
def Obligations.BusStepsRunTransactions : Prop :=
  ∀ (s : State) (rest : List Event),
    (∀ data : Word, s.busy = false → data.getLsbD 0 = true → s.inputs = .hostWr 0 4 data :: rest →
      step s = exec (.busWriteCmd s.addr s.cmd)
        { s with
          inputs := rest, reqAddr := s.addr, reqCmd := s.cmd, reqTimeout := s.timeout, tickcnt := 0#17,
          wstat := .success, pollWait := false, state := .commandSent }) ∧
    (s.state = .commandSent → s.inputs = .busWriteResp .success :: rest →
      step s = exec (.busRead4 s.reqAddr)
        { s with
          inputs := rest, history := s.history ++ [.write s.reqAddr s.reqCmd .success], wstat := .success,
          state := .awaitingConversion, pollWait := false }) ∧
    (s.state = .awaitingConversion → s.pollWait = true → s.inputs = .tick :: rest →
      step s = exec (.busRead4 s.reqAddr) { s with inputs := rest, pollWait := false })

/-! ## Host operations -/

/-- R69: an accepted START latches the request, clears the cycle's counters, enters CommandSent and issues the command
write, and changes nothing else; a START while BUSY only sets START_ERR; `data[0] = 0` changes nothing. -/
def Obligations.WrCtrlRequestsStart : Prop :=
  ∀ (data : Word) (s : State),
    (data.getLsbD 0 = true → s.state ≠ .commandSent → s.state ≠ .awaitingConversion → s.state ≠ .reading →
      exec (.wrCtrl data) s = .next
        { s with
          reqAddr := s.addr, reqCmd := s.cmd, reqTimeout := s.timeout, tickcnt := 0#17, wstat := .success,
          pollWait := false, state := .commandSent, issued := s.issued ++ [.write s.addr s.cmd] }) ∧
    (data.getLsbD 0 = true → s.state = .commandSent ∨ s.state = .awaitingConversion ∨ s.state = .reading →
      exec (.wrCtrl data) s = .next { s with startErr := true }) ∧
    (data.getLsbD 0 = false → exec (.wrCtrl data) s = .next s)

/-- R70, R74, R75, R76: a write to a read-only register completes and changes nothing. -/
def Obligations.WritesToReadOnlyRegistersChangeNothing : Prop :=
  ∀ (data : Word) (s : State),
    exec (.wrStatus data) s = .next s ∧ exec (.wrRaw data) s = .next s ∧
    exec (.wrResult data) s = .next s ∧ exec (.wrTickcnt data) s = .next s

/-- R71, R72, R73: the low bits of the data word are stored, the others ignored, and nothing else changes; in
particular not the request latches. -/
def Obligations.WritesSetRequestRegisters : Prop :=
  ∀ (data : Word) (s : State),
    exec (.wrAddr data) s = .next { s with addr := BitVec.ofNat 7 data.toNat } ∧
    exec (.wrCmd data) s = .next { s with cmd := BitVec.ofNat 8 data.toNat } ∧
    exec (.wrTimeout data) s = .next { s with timeout := BitVec.ofNat 16 data.toNat }

/-- R77, R79 to R84: each read returns its register zero-extended (CTRL reads 0) and changes no register. -/
def Obligations.ReadsReturnRegisters : Prop :=
  ∀ s : State,
    exec .rdCtrl s = .next { s with hostReads := s.hostReads ++ [⟨.ctrl, 0#32⟩] } ∧
    exec .rdAddr s = .next { s with hostReads := s.hostReads ++ [⟨.addr, BitVec.ofNat 32 s.addr.toNat⟩] } ∧
    exec .rdCmd s = .next { s with hostReads := s.hostReads ++ [⟨.cmd, BitVec.ofNat 32 s.cmd.toNat⟩] } ∧
    exec .rdTimeout s = .next { s with hostReads := s.hostReads ++ [⟨.timeout, BitVec.ofNat 32 s.timeout.toNat⟩] } ∧
    exec .rdRaw s = .next { s with hostReads := s.hostReads ++ [⟨.raw, s.raw⟩] } ∧
    exec .rdResult s = .next { s with hostReads := s.hostReads ++ [⟨.result, s.result⟩] } ∧
    exec .rdTickcnt s = .next { s with hostReads := s.hostReads ++ [⟨.tickcnt, BitVec.ofNat 32 s.tickcnt.toNat⟩] }

/-- R52, R78: the word RD_STATUS returns, field by field, reserved bits 0, and that the read changes no register. -/
def Obligations.RdStatusReturnsFields : Prop :=
  ∀ s : State, ∃ v : Word,
    exec .rdStatus s = .next { s with hostReads := s.hostReads ++ [⟨.status, v⟩] } ∧
    v.extractLsb' 0 3 = seqCode s.state ∧ v.getLsbD 3 = s.pollWait ∧ v.getLsbD 4 = false ∧
    v.extractLsb' 5 3 = statusCode s.wstat ∧ v.extractLsb' 8 2 = ovfCode s.ovf ∧ v.getLsbD 10 = s.startErr ∧
    v.getLsbD 11 = s.busy ∧ v.extractLsb' 12 20 = 0#20

/-- R39: a host access of another width, outside the window, or at an offset with `off[1:0] != 00`, is refused, in every
state. The names of the three shapes are the model's (log 20), and so is that a refusal is an outcome without a next
state (log 10). -/
def Obligations.IllShapedHostAccessesAreRefused : Prop :=
  ∀ (s : State) (rest : List Event) (off n : Nat) (data : Word), n ≠ 4 ∨ 32 ≤ off ∨ off % 4 ≠ 0 →
    s.inputs = .hostWr off n data :: rest ∨ s.inputs = .hostRd off n :: rest →
    ∃ r, step s = .refused r ∧
      (r = .accessWidth ∧ n ≠ 4 ∨ r = .outsideWindow ∧ 32 ≤ off ∨ r = .misalignedOffset ∧ off % 4 ≠ 0)

/-- 20_memory.md sections 1 and 2: every 32-bit access at a word offset of the window goes on, in every state
(40_host_ops.md: "no host operation is ever held back"). -/
def Obligations.AlignedHostAccessesAlwaysComplete : Prop :=
  ∀ (s : State) (rest : List Event) (off : Nat) (data : Word), off < 32 → off % 4 = 0 →
    s.inputs = .hostWr off 4 data :: rest ∨ s.inputs = .hostRd off 4 :: rest →
    ∃ t, step s = .next t ∧ t.inputs = rest

/-! ## Bus transactions -/

/-- R63, R85, R90 and their layout: each bus transaction completes, its only effect that its request is issued; its
BRW and payload are those of the table. That the issue is kept in a list is the model's (log 4). -/
def Obligations.BusTransactionsIssueRequests : Prop :=
  ∀ (s : State) (a : BusAddr) (payload : Byte),
    exec (.busWriteCmd a payload) s = .next { s with issued := s.issued ++ [.write a payload] } ∧
    exec (.busRead4 a) s = .next { s with issued := s.issued ++ [.read4 a] } ∧
    (BusRequest.write a payload).brw = a ++ 0#1 ∧ (BusRequest.write a payload).payload = [payload] ∧
    (BusRequest.read4 a).brw = a ++ 1#1 ∧ (BusRequest.read4 a).payload = []

/-- R32: the outstanding request. -/
def Obligations.OutstandingRequestIsDerived : Prop :=
  ∀ s : State,
    (s.state = .commandSent → s.outstanding = some (.write s.reqAddr s.reqCmd)) ∧
    (s.state = .awaitingConversion → s.pollWait = false → s.outstanding = some (.read4 s.reqAddr)) ∧
    (s.state = .awaitingConversion → s.pollWait = true → s.outstanding = none) ∧
    (s.state ≠ .commandSent → s.state ≠ .awaitingConversion → s.outstanding = none)

/-- R87: a successful command write. -/
def Obligations.WriteSuccessStartsPolling : Prop :=
  ∀ (s : State) (rest : List Event), s.state = .commandSent → s.inputs = .busWriteResp .success :: rest →
    step s = .next
      { s with
        inputs := rest, history := s.history ++ [.write s.reqAddr s.reqCmd .success], wstat := .success,
        state := .awaitingConversion, pollWait := false, issued := s.issued ++ [.read4 s.reqAddr] }

/-- R88 and R114: a failed command write enters Error with the cause in WSTAT and issues no read. -/
def Obligations.WriteFailureEndsInError : Prop :=
  ∀ (s : State) (rest : List Event) (code : BusStatus), s.state = .commandSent → code ≠ .success →
    s.inputs = .busWriteResp code :: rest →
    step s = .next
      { s with
        inputs := rest, history := s.history ++ [.write s.reqAddr s.reqCmd code], wstat := code, state := .error }

/-- R92: an answer of four bytes fills SR, the first byte received the most significant, and enters Reading. -/
def Obligations.FullAnswerFillsShiftRegister : Prop :=
  ∀ (s : State) (rest : List Event) (b0 b1 b2 b3 : Byte), s.state = .awaitingConversion → s.pollWait = false →
    s.inputs = .busReadResp (.four b0 b1 b2 b3) :: rest →
    step s = .next
      { s with
        inputs := rest, history := s.history ++ [.read s.reqAddr [b0, b1, b2, b3]], sr := b0 ++ b1 ++ b2 ++ b3,
        state := .reading }

/-- R93: a short answer counts one failed attempt; the new count above REQ_TIMEOUT ends in Timeout, else the block waits
for a tick; the bytes are discarded. -/
def Obligations.ShortAnswerCountsAFailedAttempt : Prop :=
  ∀ (s : State) (rest : List Event) (answer : ReadAnswer), s.state = .awaitingConversion → s.pollWait = false →
    answer.bytes.length < 4 → s.inputs = .busReadResp answer :: rest →
    step s = .next
      (if s.reqTimeout.toNat < (s.tickcnt + 1#17).toNat then
        { s with
          inputs := rest, history := s.history ++ [.read s.reqAddr answer.bytes], tickcnt := s.tickcnt + 1#17,
          state := .timeout }
      else
        { s with
          inputs := rest, history := s.history ++ [.read s.reqAddr answer.bytes], tickcnt := s.tickcnt + 1#17,
          pollWait := true })

/-- R95: a TICK ends the poll wait and issues the retry; anywhere else it is discarded. -/
def Obligations.TickEndsPollWaitOnly : Prop :=
  ∀ (s : State) (rest : List Event), s.inputs = .tick :: rest →
    (s.state = .awaitingConversion → s.pollWait = true →
      step s = .next { s with inputs := rest, pollWait := false, issued := s.issued ++ [.read4 s.reqAddr] }) ∧
    (s.state ≠ .awaitingConversion ∨ s.pollWait = false → step s = .next { s with inputs := rest })

/-- 70_reset_and_hazards.md section 1: an answer that is not enabled is never taken; the model drops it, and a turn for
DECODE outside Reading does nothing (log 2). -/
def Obligations.EventsNotEnabledAreDropped : Prop :=
  ∀ (s : State) (rest : List Event),
    (∀ code, s.state ≠ .commandSent → s.inputs = .busWriteResp code :: rest →
      step s = .next { s with inputs := rest }) ∧
    (∀ answer, s.state ≠ .awaitingConversion ∨ s.pollWait = true → s.inputs = .busReadResp answer :: rest →
      step s = .next { s with inputs := rest }) ∧
    (s.state ≠ .reading → s.inputs = .decode :: rest → step s = .next { s with inputs := rest })

/-! ## Shift register and sample decoder -/

/-- R98, R99: one byte enters at the least significant end; four replace the whole register, whatever it held. -/
def Obligations.ShiftRegisterTakesBytes : Prop :=
  (∀ (sr : Word) (b : Byte), (shiftIn1 sr b).toNat = sr.toNat % 2 ^ 24 * 256 + b.toNat) ∧
  ∀ (sr : Word) (b0 b1 b2 b3 : Byte),
    shiftIn4 sr b0 b1 b2 b3 = shiftIn1 (shiftIn1 (shiftIn1 (shiftIn1 sr b0) b1) b2) b3 ∧
    (shiftIn4 sr b0 b1 b2 b3).toNat = b0.toNat * 2 ^ 24 + b1.toNat * 2 ^ 16 + b2.toNat * 2 ^ 8 + b3.toNat

/-- 43_shift_register.md, the byte-index relation: after a full answer the byte in position `j` is byte index `3 - j`
of SR. The spec marks it [derived]. -/
def Obligations.WirePositionIsByteIndexReversed : Prop :=
  ∀ (s : State) (rest : List Event) (b0 b1 b2 b3 : Byte), s.state = .awaitingConversion → s.pollWait = false →
    s.inputs = .busReadResp (.four b0 b1 b2 b3) :: rest →
    ∃ t, step s = .next t ∧ ∀ j : Fin 4, [b0, b1, b2, b3][j] = byteLane t.sr ⟨3 - j.val, by omega⟩

/-- R103: POS and NEG compare the whole MSB byte, are never both 1, and do not see the lower three bytes. -/
def Obligations.ComparatorTestsWholeMsbByte : Prop :=
  ∀ w : Word,
    (posFlag w = true ↔ w.toNat / 2 ^ 24 = 0xC0) ∧ (negFlag w = true ↔ w.toNat / 2 ^ 24 = 0x3F) ∧
    ¬(posFlag w = true ∧ negFlag w = true) ∧
    ∀ v : Word, v.extractLsb' 24 8 = w.extractLsb' 24 8 → posFlag v = posFlag w ∧ negFlag v = negFlag w

/-- R104, R105: an overflow case writes its sentinel and its flag, and nothing else, whatever SR's lower bits. -/
def Obligations.OverflowCasesReturnSentinels : Prop :=
  ∀ (low : BitVec 24) (s : State),
    exec (.decPosovf low) s = .next { s with result := 0x7FFFFFFF#32, ovf := .positive } ∧
    exec (.decNegovf low) s = .next { s with result := 0x80000000#32, ovf := .negative }

/-- R106: DEC_NORMAL clears the marker, shifts left by one within 32 bits, and takes the floor of a division by 256;
OVF is none and nothing else changes. -/
def Obligations.NormalCaseExtractsSample : Prop :=
  ∀ (m : BitVec 1) (d : BitVec 24) (sub : BitVec 7) (s : State),
    exec (.decNormal m d sub) s = .next
      { s with
        result := BitVec.ofInt 32 (Int.fdiv ((s.sr &&& 0x7FFFFFFF#32) <<< 1).toInt 256), ovf := .none }

/-- 44_sample_decoder.md, the closed form: RESULT is the sign extension of `SR[30:7]`. The spec marks it [derived]. -/
def Obligations.NormalCaseClosedForm : Prop :=
  ∀ (m : BitVec 1) (d : BitVec 24) (sub : BitVec 7) (s : State), ∃ t,
    exec (.decNormal m d sub) s = .next t ∧ t.result = (s.sr.extractLsb' 7 24).signExtend 32 ∧
    t.result.extractLsb' 24 8 = (if s.sr.getLsbD 30 then 0xFF#8 else 0x00#8)

/-- 44_sample_decoder.md, the result range: DEC_NORMAL gives exactly the 24-bit values, each from a word that selects
DEC_NORMAL, and both sentinels lie outside. The spec marks it [derived]. -/
def Obligations.NormalResultRange : Prop :=
  (∀ w : Word, -2 ^ 23 ≤ (extractSample w).toInt ∧ (extractSample w).toInt ≤ 2 ^ 23 - 1) ∧
  (∀ v : Int, -2 ^ 23 ≤ v → v ≤ 2 ^ 23 - 1 →
    ∃ (w : Word) (m : BitVec 1) (d : BitVec 24) (sub : BitVec 7), decodeRaw32 w = .decNormal m d sub ∧
      (extractSample w).toInt = v) ∧
  Config.posSat.toInt = 2 ^ 31 - 1 ∧ Config.negSat.toInt = -2 ^ 31

/-- 44_sample_decoder.md, the round trip: a value in range, encoded with any sub-LSB bits and decoded by the DECODE
step, comes back, with OVF none. The spec marks it [derived]. -/
def Obligations.SampleRoundTrip : Prop :=
  ∀ (v : Int) (sub : BitVec 7) (s : State) (rest : List Event), -2 ^ 23 ≤ v → v ≤ 2 ^ 23 - 1 →
    s.state = .reading → s.sr = encSample v sub → s.inputs = .decode :: rest →
    ∃ t, step s = .next t ∧ t.result.toInt = v ∧ t.ovf = .none ∧ t.state = .done

/-- R108: DECODE in Reading copies SR to RAW, decodes by the MSB byte, and enters Done; nothing else changes. -/
def Obligations.DecodeStepSetsResults : Prop :=
  ∀ (s : State) (rest : List Event), s.state = .reading → s.inputs = .decode :: rest →
    (s.sr.extractLsb' 24 8 = 0xC0#8 →
      step s = .next
        { s with inputs := rest, raw := s.sr, result := Config.posSat, ovf := .positive, state := .done }) ∧
    (s.sr.extractLsb' 24 8 = 0x3F#8 →
      step s = .next
        { s with inputs := rest, raw := s.sr, result := Config.negSat, ovf := .negative, state := .done }) ∧
    (s.sr.extractLsb' 24 8 ≠ 0xC0#8 → s.sr.extractLsb' 24 8 ≠ 0x3F#8 →
      step s = .next
        { s with inputs := rest, raw := s.sr, result := extractSample s.sr, ovf := .none, state := .done })

/-! ## The command byte -/

/-- The CMD8 rows are field values, not operations: each completes and changes nothing. That this is their meaning is
read from 30_encoding.md section 2 ("The ADCC only transmits the command byte") and the table's notes (log 7). -/
def Obligations.CommandFieldRowsChangeNothing : Prop :=
  ∀ (b : Byte) (s : State),
    exec (.cmdSpd1x b) s = .next s ∧ exec (.cmdSpd2x b) s = .next s ∧ exec (.cmdFr5060hz b) s = .next s ∧
    exec (.cmdFr50hz b) s = .next s ∧ exec (.cmdFr60hz b) s = .next s ∧ exec (.cmdFrReserved b) s = .next s ∧
    exec (.cmdImExternal b) s = .next s ∧ exec (.cmdImInternalTemp b) s = .next s ∧
    exec (.cmdReservedHi b) s = .next s

/-- 30_encoding.md sections 2 and 7: the controller neither validates nor interprets the command byte. Two states that
differ only in it step alike, and stay equal but for it. -/
def Obligations.CommandByteDoesNotSteerTheController : Prop :=
  ∀ s t : State, s.hideCommand = t.hideCommand →
    (∀ s', step s = .next s' → ∃ t', step t = .next t' ∧ s'.hideCommand = t'.hideCommand) ∧
    (∀ f, step s = .fault f → step t = .fault f) ∧
    (∀ r, step s = .refused r → step t = .refused r)

/-! ## Reset -/

/-- R127: RESET sets every element to its reset value, in every state; no request is outstanding after it; it takes
precedence over every other event in the same clock. -/
def Obligations.ResetSetsEveryElement : Prop :=
  (∀ (s : State) (rest : List Event), s.inputs = .reset :: rest →
    ∃ t, step s = .next t ∧
      t.registers =
        { state := .idle, pollWait := false, wstat := .success, ovf := .none, startErr := false, addr := 0x00#7,
          cmd := 0x00#8, timeout := 0#16, reqAddr := 0x00#7, reqCmd := 0x00#8, reqTimeout := 0#16,
          sr := 0x00000000#32, raw := 0x00000000#32, result := 0x00000000#32, tickcnt := 0#17,
          inputs := [], history := [], issued := [], hostReads := [] } ∧
      t.outstanding = none) ∧
  ∀ (controller : Option ControllerInput) (tick : Bool) (host : Option HostInput) (s : State),
    clockStep ⟨true, controller, tick, host⟩ s = takeEvent .reset s

/-! ## Where the machine stops -/

/-- R13(2) with the waits of 70_reset_and_hazards.md section 2: with no event left the machine is stuck in every state
but Reading, and the reason says what it waits for; in Reading DECODE, the controller's own step, still runs (R6(2),
R108). That the stop is a Fault is the model's (log 3). -/
def Obligations.StuckWithoutEnvironment : Prop :=
  ∀ s : State, s.inputs = [] →
    (s.state = .commandSent → step s = .fault .awaitingBusAnswer) ∧
    (s.state = .awaitingConversion → s.pollWait = false → step s = .fault .awaitingBusAnswer) ∧
    (s.state = .awaitingConversion → s.pollWait = true → step s = .fault .awaitingTick) ∧
    (s.state = .idle ∨ s.state = .done ∨ s.state = .timeout ∨ s.state = .error → step s = .fault .awaitingHost) ∧
    (s.state = .reading → step s = step { s with inputs := [.decode] })

/-! ## Rules of the whole machine -/

/-- R33: the sequencer moves only along these transitions, each with the event that drives it. -/
def Obligations.SequencerMovesOnlyAlongTransitions : Prop :=
  ∀ s t : State, step s = .next t → t.state ≠ s.state →
    (∃ e, s.inputs.head? = some e ∧ acceptsStart s e = true ∧ s.busy = false ∧ t.state = .commandSent) ∨
    (s.inputs.head? = some (.busWriteResp .success) ∧ s.state = .commandSent ∧ t.state = .awaitingConversion) ∨
    (∃ code, s.inputs.head? = some (.busWriteResp code) ∧ code ≠ .success ∧ s.state = .commandSent ∧
      t.state = .error) ∨
    (∃ answer, s.inputs.head? = some (.busReadResp answer) ∧ s.state = .awaitingConversion ∧ s.pollWait = false ∧
      (answer.bytes.length = 4 ∧ t.state = .reading ∨ answer.bytes.length < 4 ∧ t.state = .timeout)) ∨
    ((s.inputs.head? = some .decode ∨ s.inputs = []) ∧ s.state = .reading ∧ t.state = .done) ∨
    (s.inputs.head? = some .reset ∧ t.state = .idle)

/-- 10_state.md section 5 and R19: only DECODE (in Reading) and RESET write RAW, RESULT and OVF. -/
def Obligations.OnlyDecodeOrResetWritesResults : Prop :=
  ∀ s t : State, step s = .next t → s.inputs.head? ≠ some .reset →
    ¬(s.state = .reading ∧ (s.inputs.head? = some .decode ∨ s.inputs = [])) →
    t.raw = s.raw ∧ t.result = s.result ∧ t.ovf = s.ovf

/-- 10_state.md section 4: only an accepted START and RESET write the request latches, and the START copies ADDR, CMD and
TIMEOUT. -/
def Obligations.OnlyStartOrResetLoadsRequest : Prop :=
  ∀ s t : State, step s = .next t →
    (∀ e, s.inputs.head? = some e → acceptsStart s e = true →
      t.reqAddr = s.addr ∧ t.reqCmd = s.cmd ∧ t.reqTimeout = s.timeout) ∧
    ((∀ e, s.inputs.head? = some e → acceptsStart s e = false ∧ e ≠ .reset) →
      t.reqAddr = s.reqAddr ∧ t.reqCmd = s.reqCmd ∧ t.reqTimeout = s.reqTimeout)

/-- R101: SR is written only by an outstanding read attempt's answer of 4 bytes (and by RESET); every other step leaves
it. -/
def Obligations.ShiftRegisterCommitsOnFourBytes : Prop :=
  ∀ s t : State, step s = .next t → t.sr ≠ s.sr →
    s.inputs.head? = some .reset ∨
    ∃ b0 b1 b2 b3, s.inputs.head? = some (.busReadResp (.four b0 b1 b2 b3)) ∧ s.state = .awaitingConversion ∧
      s.pollWait = false ∧ t.sr = b0 ++ b1 ++ b2 ++ b3

/-- R20: START_ERR is set only by a START request while BUSY, and cleared only by RESET. -/
def Obligations.StartErrIsSticky : Prop :=
  ∀ s t : State, step s = .next t →
    (s.startErr = true → s.inputs.head? ≠ some .reset → t.startErr = true) ∧
    (s.startErr = false → t.startErr = true →
      ∃ data : Word, data.getLsbD 0 = true ∧ s.inputs.head? = some (.hostWr 0 4 data) ∧ s.busy = true)

/-- R30: TICKCNT is written only by an accepted START (0), a failed read attempt (plus 1) and RESET (0). -/
def Obligations.TickcntCountsFailedAttempts : Prop :=
  ∀ s t : State, step s = .next t →
    (∀ e, s.inputs.head? = some e → acceptsStart s e = true → t.tickcnt = 0#17) ∧
    (s.inputs.head? = some .reset → t.tickcnt = 0#17) ∧
    (∀ answer, s.inputs.head? = some (.busReadResp answer) → s.state = .awaitingConversion → s.pollWait = false →
      answer.bytes.length < 4 → t.tickcnt = s.tickcnt + 1#17) ∧
    ((∀ e, s.inputs.head? = some e → acceptsStart s e = false ∧ e ≠ .reset) →
      (∀ answer, s.inputs.head? = some (.busReadResp answer) →
        s.state ≠ .awaitingConversion ∨ s.pollWait = true ∨ answer.bytes.length = 4) →
      t.tickcnt = s.tickcnt)

/-- R122 and R121: a terminal state is left only by an accepted START or RESET, and until then no step changes STATE,
POLLWAIT, WSTAT, TICKCNT, SR, RAW, RESULT or OVF. -/
def Obligations.TerminalStatesAreStable : Prop :=
  ∀ (s t : State), step s = .next t → s.cycleEnd = true →
    (∃ e, s.inputs.head? = some e ∧ (acceptsStart s e = true ∨ e = .reset)) ∨
    (t.state = s.state ∧ t.pollWait = s.pollWait ∧ t.wstat = s.wstat ∧ t.tickcnt = s.tickcnt ∧ t.sr = s.sr ∧
      t.raw = s.raw ∧ t.result = s.result ∧ t.ovf = s.ovf ∧ t.startErr = s.startErr)

/-- R94: in the poll wait no request is outstanding, the controller takes no step of its own, and only TICK and RESET
change STATE or POLLWAIT. -/
def Obligations.PollWaitIsLeftByTickOrReset : Prop :=
  ∀ s : State, s.state = .awaitingConversion → s.pollWait = true →
    s.outstanding = none ∧
    (s.inputs = [] → ∀ t, step s ≠ .next t) ∧
    ∀ t, step s = .next t → s.inputs.head? ≠ some .tick → s.inputs.head? ≠ some .reset →
      t.state = .awaitingConversion ∧ t.pollWait = true

/-- R48: host accesses while a cycle is in flight update ADDR, CMD, TIMEOUT and START_ERR at most; the cycle never sees
them. -/
def Obligations.HostCannotDisturbCycle : Prop :=
  ∀ (s t : State) (e : Event), step s = .next t → s.inputs.head? = some e → s.busy = true →
    (∃ off n data, e = .hostWr off n data) ∨ (∃ off n, e = .hostRd off n) →
    t.state = s.state ∧ t.pollWait = s.pollWait ∧ t.wstat = s.wstat ∧ t.ovf = s.ovf ∧ t.reqAddr = s.reqAddr ∧
    t.reqCmd = s.reqCmd ∧ t.reqTimeout = s.reqTimeout ∧ t.sr = s.sr ∧ t.raw = s.raw ∧ t.result = s.result ∧
    t.tickcnt = s.tickcnt ∧ t.outstanding = s.outstanding ∧ t.issued = s.issued ∧ t.history = s.history

/-- 41_command_transmit.md: one command write per accepted START, to ADDR with CMD as its payload, and none at any other
time. -/
def Obligations.OneCommandWritePerStart : Prop :=
  ∀ s t : State, step s = .next t →
    (∀ e, s.inputs.head? = some e → acceptsStart s e = true →
      t.issued = s.issued ++ [.write s.addr s.cmd] ∧ t.outstanding = some (.write s.addr s.cmd)) ∧
    ((∀ e, s.inputs.head? = some e → acceptsStart s e = false) → t.writesIssued = s.writesIssued)

/-- 42_polling_receiver.md: a read attempt goes out only with a successful write answer or with the tick that ends the
poll wait. -/
def Obligations.ReadAttemptsFollowSuccessOrTick : Prop :=
  ∀ s t : State, step s = .next t → t.readsIssued ≠ s.readsIssued →
    t.readsIssued = s.readsIssued + 1 ∧ t.outstanding = some (.read4 s.reqAddr) ∧
    ((s.state = .commandSent ∧ s.inputs.head? = some (.busWriteResp .success)) ∨
     (s.state = .awaitingConversion ∧ s.pollWait = true ∧ s.inputs.head? = some .tick))

/-- 20_memory.md section 3: a step that is not RESET changes the number of requests issued and the number retired plus
outstanding by the same amount. The counts are of the model's own lists (log 4). -/
def Obligations.StepConservesRequestBalance : Prop :=
  ∀ s t : State, step s = .next t → s.inputs.head? ≠ some .reset →
    t.issued.length + s.history.length + s.openRequests = s.issued.length + t.history.length + t.openRequests

/-- R45: the outstanding request is the one issued last, and a step keeps it so. -/
def Obligations.StepKeepsLastIssuedOutstanding : Prop :=
  ∀ s t : State, LastIssuedInv s → step s = .next t → LastIssuedInv t

/-! ## Invariants -/

/-- 10_state.md section 6: the reset state satisfies the invariants. -/
def Obligations.ResetSatisfiesInvariants : Prop := StateInv State.reset ∧ LastIssuedInv State.reset

/-- 10_state.md section 6: every step keeps the six invariants. The spec marks them [derived]. -/
def Obligations.StepKeepsInvariants : Prop :=
  ∀ s t : State, StateInv s → step s = .next t → StateInv t

/-- 10_state.md section 6: every state reachable from reset, whatever the environment does, satisfies the invariants,
and TICKCNT never wraps. -/
def Obligations.ReachableStatesSatisfyInvariants : Prop :=
  ∀ s : State, Reachable s → StateInv s ∧ LastIssuedInv s ∧ s.tickcnt.toNat ≤ 2 ^ 16

/-! ## The attempt law -/

/-- 42_polling_receiver.md, the attempt law (2) and (4), with the step count of 70_reset_and_hazards.md section 3:
`j - 1` short answers, each followed by a tick, then four bytes and DECODE, are `2 j + 1` steps to Done, with
TICKCNT = j - 1, exactly `j` read attempts and no other request, whatever host accesses and discarded ticks stand among
them. The spec marks it [derived]. -/
def Obligations.AttemptLawSuccess : Prop :=
  ∀ (s : State) (fails : List ReadAnswer) (b0 b1 b2 b3 : Byte) (events rest : List Event),
    s.state = .commandSent → s.tickcnt = 0#17 → (∀ a ∈ fails, a.bytes.length < 4) →
    fails.length ≤ s.reqTimeout.toNat →
    CycleAmong (successCycle fails b0 b1 b2 b3) events → s.inputs = events ++ rest →
    (successCycle fails b0 b1 b2 b3).length = 2 * (fails.length + 1) + 1 ∧
    ∃ t : State, Sys2Proof.core.run events.length s = .next t ∧ t.state = .done ∧ t.pollWait = false ∧
      t.tickcnt.toNat = fails.length ∧ t.raw = b0 ++ b1 ++ b2 ++ b3 ∧ t.inputs = rest ∧
      t.history = s.history ++ .write s.reqAddr s.reqCmd .success ::
        (readRecords s.reqAddr fails ++ [.read s.reqAddr [b0, b1, b2, b3]]) ∧
      t.readsIssued = s.readsIssued + (fails.length + 1) ∧ t.writesIssued = s.writesIssued

/-- 42_polling_receiver.md, the attempt law (3) and (4): when attempts 1 .. T+1 all fail, with T = REQ_TIMEOUT, the
cycle ends in Timeout after its `2 T + 2` steps, T ticks and T + 1 read attempts, with TICKCNT = T + 1 and no decoded
value, whatever host accesses and discarded ticks stand among them. The spec marks it [derived]. -/
def Obligations.AttemptLawTimeout : Prop :=
  ∀ (s : State) (fails : List ReadAnswer) (last : ReadAnswer) (events rest : List Event),
    s.state = .commandSent → s.tickcnt = 0#17 → (∀ a ∈ fails, a.bytes.length < 4) → last.bytes.length < 4 →
    fails.length = s.reqTimeout.toNat →
    CycleAmong (timeoutCycle fails last) events → s.inputs = events ++ rest →
    (timeoutCycle fails last).length = 2 * s.reqTimeout.toNat + 2 ∧
    ∃ t : State, Sys2Proof.core.run events.length s = .next t ∧ t.state = .timeout ∧ t.pollWait = false ∧
      t.tickcnt.toNat = s.reqTimeout.toNat + 1 ∧ t.raw = s.raw ∧ t.result = s.result ∧ t.ovf = s.ovf ∧
      t.sr = s.sr ∧ t.inputs = rest ∧
      t.history = s.history ++ .write s.reqAddr s.reqCmd .success :: readRecords s.reqAddr (fails ++ [last]) ∧
      t.readsIssued = s.readsIssued + (s.reqTimeout.toNat + 1) ∧ t.writesIssued = s.writesIssued

/-! ## Several events in one clock -/

/-- R119: a cycle-level step that applies one clock's events at once equals taking them one by one in the order RESET
(which discards the others), answer or DECODE, TICK, host access: written out for each shape of clock. -/
def Obligations.ClockEqualsSequentialEvents : Prop :=
  (∀ status, ControllerInput.event (.writeResp status) = .busWriteResp status) ∧
  (∀ answer, ControllerInput.event (.readResp answer) = .busReadResp answer) ∧
  ControllerInput.event .decode = .decode ∧
  (∀ off n data, HostInput.event (.write off n data) = .hostWr off n data) ∧
  (∀ off n, HostInput.event (.read off n) = .hostRd off n) ∧
  ∀ s : State,
    (∀ c : ClockInputs, Sys2Proof.core.run c.events.length (s.withClock c) = clockStep c s) ∧
    (∀ controller tick host,
      clockStep ⟨true, controller, tick, host⟩ s = Sys2Proof.core.run 1 { s with inputs := .reset :: s.inputs }) ∧
    (∀ k h, clockStep ⟨false, some k, true, some h⟩ s =
      Sys2Proof.core.run 3 { s with inputs := k.event :: .tick :: h.event :: s.inputs }) ∧
    (∀ k h, clockStep ⟨false, some k, false, some h⟩ s =
      Sys2Proof.core.run 2 { s with inputs := k.event :: h.event :: s.inputs }) ∧
    (∀ k, clockStep ⟨false, some k, true, none⟩ s =
      Sys2Proof.core.run 2 { s with inputs := k.event :: .tick :: s.inputs }) ∧
    (∀ h, clockStep ⟨false, none, true, some h⟩ s =
      Sys2Proof.core.run 2 { s with inputs := .tick :: h.event :: s.inputs }) ∧
    (∀ k, clockStep ⟨false, some k, false, none⟩ s =
      Sys2Proof.core.run 1 { s with inputs := k.event :: s.inputs }) ∧
    clockStep ⟨false, none, true, none⟩ s = Sys2Proof.core.run 1 { s with inputs := .tick :: s.inputs } ∧
    (∀ h, clockStep ⟨false, none, false, some h⟩ s =
      Sys2Proof.core.run 1 { s with inputs := h.event :: s.inputs }) ∧
    clockStep ⟨false, none, false, none⟩ s = .next s

/-- 60_exceptions.md section 2, the consequences of the order, which the spec marks [derived]: RESET discards the
clock's other events; a failed read and a tick in one clock retry at once; a START in the clock of the step that ends a
cycle, in Error, Timeout or Done, is accepted. -/
def Obligations.ClockOrderConsequences : Prop :=
  ∀ s : State,
    (∀ controller tick host, clockStep ⟨true, controller, tick, host⟩ s = .next s.applyReset) ∧
    (∀ answer : ReadAnswer, s.state = .awaitingConversion → s.pollWait = false → answer.bytes.length < 4 →
      (s.tickcnt + 1#17).toNat ≤ s.reqTimeout.toNat →
      ∃ t, clockStep ⟨false, some (.readResp answer), true, none⟩ s = .next t ∧
        t.outstanding = some (.read4 s.reqAddr) ∧ t.tickcnt = s.tickcnt + 1#17) ∧
    ∀ (data : Word) (tick : Bool), data.getLsbD 0 = true →
      (∀ code : BusStatus, s.state = .commandSent → code ≠ .success →
        ∃ t, clockStep ⟨false, some (.writeResp code), tick, some (.write 0 4 data)⟩ s = .next t ∧
          t.state = .commandSent ∧ t.startErr = s.startErr ∧ t.wstat = .success ∧
          t.outstanding = some (.write s.addr s.cmd)) ∧
      (∀ answer : ReadAnswer, s.state = .awaitingConversion → s.pollWait = false → answer.bytes.length < 4 →
        s.reqTimeout.toNat < (s.tickcnt + 1#17).toNat →
        ∃ t, clockStep ⟨false, some (.readResp answer), tick, some (.write 0 4 data)⟩ s = .next t ∧
          t.state = .commandSent ∧ t.startErr = s.startErr ∧ t.tickcnt = 0#17 ∧ t.result = s.result ∧
          t.outstanding = some (.write s.addr s.cmd)) ∧
      (s.state = .reading →
        ∃ t, clockStep ⟨false, some .decode, tick, some (.write 0 4 data)⟩ s = .next t ∧
          t.state = .commandSent ∧ t.startErr = s.startErr ∧ t.tickcnt = 0#17 ∧ t.raw = s.sr ∧
          t.outstanding = some (.write s.addr s.cmd))

/-! ## Host programs -/

/-- 30_encoding.md section 8 (R67, R68): a `WR` or `RD` line runs the instruction of its register; the
pseudo-instructions expand as R68 says; WAITEND goes round again exactly while STATE is not terminal; GETSAMPLE reads
RESULT exactly when the STATUS word it read last shows Done. That the program, its loop and its test are the host's and
run by `hostTurn` beside the block is read from R15 and R68 (log 19). -/
def Obligations.HostProgramLines : Prop :=
  (∀ (op : HostOp) (rest : List Event) (s : State), s.inputs = op.event :: rest →
    step s = exec op.instr { s with inputs := rest }) ∧
  (∀ (reg : HostReg) (imm : Word) (rest : List HostOp) (s : State),
    (∃ t, exec (writeInstr reg imm) s = .next t ∧ hostTurn (.wr reg imm :: rest) s = .next (rest, t)) ∧
    ∃ t, exec (readInstr reg) s = .next t ∧ hostTurn (.rd reg :: rest) s = .next (rest, t)) ∧
  (∀ s : State, waitEndAgain s.statusWord = (s.state == .idle || s.busy)) ∧
  (∀ (rest : List HostOp) (s : State), ∃ t, exec .rdStatus s = .next t ∧ t.lastStatus = s.statusWord ∧
    hostTurn (.readStatusUntilEnd :: rest) s =
      .next (if s.cycleEnd then rest else .readStatusUntilEnd :: rest, t)) ∧
  (∀ (rest : List HostOp) (s : State),
    (s.lastStatus.extractLsb' 0 3 = 4#3 →
      ∃ t, exec .rdResult s = .next t ∧ hostTurn (.readResultIfDone :: rest) s = .next (rest, t)) ∧
    (s.lastStatus.extractLsb' 0 3 ≠ 4#3 → hostTurn (.readResultIfDone :: rest) s = .next (rest, s))) ∧
  (∀ s : State, s.cycleEnd = true →
    ∃ t u, hostTurn PseudoOp.getSample.expand s = .next ([.readResultIfDone], t) ∧
      hostTurn [.readResultIfDone] t = .next ([], u) ∧
      u.hostReads = s.hostReads ++ (if s.state = .done then [⟨.status, s.statusWord⟩, ⟨.result, s.result⟩]
        else [⟨.status, s.statusWord⟩])) ∧
  PseudoOp.start.expand = [.wr .ctrl 1#32] ∧ PseudoOp.waitEnd.expand = [.readStatusUntilEnd] ∧
  (∀ a c t, (PseudoOp.convert a c t).expand = [.wr .addr a, .wr .cmd c, .wr .timeout t, .wr .ctrl 1#32,
    .readStatusUntilEnd]) ∧
  PseudoOp.getSample.expand = [.readStatusUntilEnd, .readResultIfDone]

/-! ## What RESET leaves -/

/-- RESET leaves the history, the requests issued, the words returned to the host and the later events as they are. No rule of the spec says it: R127 sets state elements, and R49 says that the
history is none, so this is the model's choice (log 4). -/
def Obligations.ResetLeavesObservations : Prop :=
  ∀ (s : State) (rest : List Event), s.inputs = .reset :: rest →
    ∃ t, step s = .next t ∧ t.history = s.history ∧ t.issued = s.issued ∧ t.hostReads = s.hostReads ∧ t.inputs = rest
end

