-- ==== Sys2Proof/Laws/State.lean ====
section
/-! SUPPORT. One lemma per field for each named update of the state, so that no later proof unfolds a record update. -/

namespace Sys2Proof.Machine

variable (s : State)

/-! ## issue -/

@[simp] theorem State.issue_state (r : BusRequest) : (s.issue r).state = s.state := rfl
@[simp] theorem State.issue_pollWait (r : BusRequest) : (s.issue r).pollWait = s.pollWait := rfl
@[simp] theorem State.issue_wstat (r : BusRequest) : (s.issue r).wstat = s.wstat := rfl
@[simp] theorem State.issue_ovf (r : BusRequest) : (s.issue r).ovf = s.ovf := rfl
@[simp] theorem State.issue_startErr (r : BusRequest) : (s.issue r).startErr = s.startErr := rfl
@[simp] theorem State.issue_addr (r : BusRequest) : (s.issue r).addr = s.addr := rfl
@[simp] theorem State.issue_cmd (r : BusRequest) : (s.issue r).cmd = s.cmd := rfl
@[simp] theorem State.issue_timeout (r : BusRequest) : (s.issue r).timeout = s.timeout := rfl
@[simp] theorem State.issue_reqAddr (r : BusRequest) : (s.issue r).reqAddr = s.reqAddr := rfl
@[simp] theorem State.issue_reqCmd (r : BusRequest) : (s.issue r).reqCmd = s.reqCmd := rfl
@[simp] theorem State.issue_reqTimeout (r : BusRequest) : (s.issue r).reqTimeout = s.reqTimeout := rfl
@[simp] theorem State.issue_sr (r : BusRequest) : (s.issue r).sr = s.sr := rfl
@[simp] theorem State.issue_raw (r : BusRequest) : (s.issue r).raw = s.raw := rfl
@[simp] theorem State.issue_result (r : BusRequest) : (s.issue r).result = s.result := rfl
@[simp] theorem State.issue_tickcnt (r : BusRequest) : (s.issue r).tickcnt = s.tickcnt := rfl
@[simp] theorem State.issue_inputs (r : BusRequest) : (s.issue r).inputs = s.inputs := rfl
@[simp] theorem State.issue_history (r : BusRequest) : (s.issue r).history = s.history := rfl
@[simp] theorem State.issue_issued (r : BusRequest) : (s.issue r).issued = s.issued ++ [r] := rfl
@[simp] theorem State.issue_hostReads (r : BusRequest) : (s.issue r).hostReads = s.hostReads := rfl

/-! ## record -/

@[simp] theorem State.record_state (r : BusRecord) : (s.record r).state = s.state := rfl
@[simp] theorem State.record_pollWait (r : BusRecord) : (s.record r).pollWait = s.pollWait := rfl
@[simp] theorem State.record_wstat (r : BusRecord) : (s.record r).wstat = s.wstat := rfl
@[simp] theorem State.record_ovf (r : BusRecord) : (s.record r).ovf = s.ovf := rfl
@[simp] theorem State.record_startErr (r : BusRecord) : (s.record r).startErr = s.startErr := rfl
@[simp] theorem State.record_addr (r : BusRecord) : (s.record r).addr = s.addr := rfl
@[simp] theorem State.record_cmd (r : BusRecord) : (s.record r).cmd = s.cmd := rfl
@[simp] theorem State.record_timeout (r : BusRecord) : (s.record r).timeout = s.timeout := rfl
@[simp] theorem State.record_reqAddr (r : BusRecord) : (s.record r).reqAddr = s.reqAddr := rfl
@[simp] theorem State.record_reqCmd (r : BusRecord) : (s.record r).reqCmd = s.reqCmd := rfl
@[simp] theorem State.record_reqTimeout (r : BusRecord) : (s.record r).reqTimeout = s.reqTimeout := rfl
@[simp] theorem State.record_sr (r : BusRecord) : (s.record r).sr = s.sr := rfl
@[simp] theorem State.record_raw (r : BusRecord) : (s.record r).raw = s.raw := rfl
@[simp] theorem State.record_result (r : BusRecord) : (s.record r).result = s.result := rfl
@[simp] theorem State.record_tickcnt (r : BusRecord) : (s.record r).tickcnt = s.tickcnt := rfl
@[simp] theorem State.record_inputs (r : BusRecord) : (s.record r).inputs = s.inputs := rfl
@[simp] theorem State.record_history (r : BusRecord) : (s.record r).history = s.history ++ [r] := rfl
@[simp] theorem State.record_issued (r : BusRecord) : (s.record r).issued = s.issued := rfl
@[simp] theorem State.record_hostReads (r : BusRecord) : (s.record r).hostReads = s.hostReads := rfl

/-! ## returnToHost -/

@[simp] theorem State.returnToHost_state (r : HostReg) : (s.returnToHost r).state = s.state := rfl
@[simp] theorem State.returnToHost_pollWait (r : HostReg) : (s.returnToHost r).pollWait = s.pollWait := rfl
@[simp] theorem State.returnToHost_wstat (r : HostReg) : (s.returnToHost r).wstat = s.wstat := rfl
@[simp] theorem State.returnToHost_ovf (r : HostReg) : (s.returnToHost r).ovf = s.ovf := rfl
@[simp] theorem State.returnToHost_startErr (r : HostReg) : (s.returnToHost r).startErr = s.startErr := rfl
@[simp] theorem State.returnToHost_addr (r : HostReg) : (s.returnToHost r).addr = s.addr := rfl
@[simp] theorem State.returnToHost_cmd (r : HostReg) : (s.returnToHost r).cmd = s.cmd := rfl
@[simp] theorem State.returnToHost_timeout (r : HostReg) : (s.returnToHost r).timeout = s.timeout := rfl
@[simp] theorem State.returnToHost_reqAddr (r : HostReg) : (s.returnToHost r).reqAddr = s.reqAddr := rfl
@[simp] theorem State.returnToHost_reqCmd (r : HostReg) : (s.returnToHost r).reqCmd = s.reqCmd := rfl
@[simp] theorem State.returnToHost_reqTimeout (r : HostReg) : (s.returnToHost r).reqTimeout = s.reqTimeout := rfl
@[simp] theorem State.returnToHost_sr (r : HostReg) : (s.returnToHost r).sr = s.sr := rfl
@[simp] theorem State.returnToHost_raw (r : HostReg) : (s.returnToHost r).raw = s.raw := rfl
@[simp] theorem State.returnToHost_result (r : HostReg) : (s.returnToHost r).result = s.result := rfl
@[simp] theorem State.returnToHost_tickcnt (r : HostReg) : (s.returnToHost r).tickcnt = s.tickcnt := rfl
@[simp] theorem State.returnToHost_inputs (r : HostReg) : (s.returnToHost r).inputs = s.inputs := rfl
@[simp] theorem State.returnToHost_history (r : HostReg) : (s.returnToHost r).history = s.history := rfl
@[simp] theorem State.returnToHost_issued (r : HostReg) : (s.returnToHost r).issued = s.issued := rfl
@[simp] theorem State.returnToHost_hostReads (r : HostReg) : (s.returnToHost r).hostReads = s.hostReads ++ [⟨r, s.hostValue r⟩] := rfl

/-! ## raise, BusWriteFailure -/

@[simp] theorem State.raiseWriteFailure_state (code : BusStatus) : (s.raise (.busWriteFailure code)).state = .error := rfl
@[simp] theorem State.raiseWriteFailure_pollWait (code : BusStatus) : (s.raise (.busWriteFailure code)).pollWait = s.pollWait := rfl
@[simp] theorem State.raiseWriteFailure_wstat (code : BusStatus) : (s.raise (.busWriteFailure code)).wstat = code := rfl
@[simp] theorem State.raiseWriteFailure_ovf (code : BusStatus) : (s.raise (.busWriteFailure code)).ovf = s.ovf := rfl
@[simp] theorem State.raiseWriteFailure_startErr (code : BusStatus) : (s.raise (.busWriteFailure code)).startErr = s.startErr := rfl
@[simp] theorem State.raiseWriteFailure_addr (code : BusStatus) : (s.raise (.busWriteFailure code)).addr = s.addr := rfl
@[simp] theorem State.raiseWriteFailure_cmd (code : BusStatus) : (s.raise (.busWriteFailure code)).cmd = s.cmd := rfl
@[simp] theorem State.raiseWriteFailure_timeout (code : BusStatus) : (s.raise (.busWriteFailure code)).timeout = s.timeout := rfl
@[simp] theorem State.raiseWriteFailure_reqAddr (code : BusStatus) : (s.raise (.busWriteFailure code)).reqAddr = s.reqAddr := rfl
@[simp] theorem State.raiseWriteFailure_reqCmd (code : BusStatus) : (s.raise (.busWriteFailure code)).reqCmd = s.reqCmd := rfl
@[simp] theorem State.raiseWriteFailure_reqTimeout (code : BusStatus) : (s.raise (.busWriteFailure code)).reqTimeout = s.reqTimeout := rfl
@[simp] theorem State.raiseWriteFailure_sr (code : BusStatus) : (s.raise (.busWriteFailure code)).sr = s.sr := rfl
@[simp] theorem State.raiseWriteFailure_raw (code : BusStatus) : (s.raise (.busWriteFailure code)).raw = s.raw := rfl
@[simp] theorem State.raiseWriteFailure_result (code : BusStatus) : (s.raise (.busWriteFailure code)).result = s.result := rfl
@[simp] theorem State.raiseWriteFailure_tickcnt (code : BusStatus) : (s.raise (.busWriteFailure code)).tickcnt = s.tickcnt := rfl
@[simp] theorem State.raiseWriteFailure_inputs (code : BusStatus) : (s.raise (.busWriteFailure code)).inputs = s.inputs := rfl
@[simp] theorem State.raiseWriteFailure_history (code : BusStatus) : (s.raise (.busWriteFailure code)).history = s.history := rfl
@[simp] theorem State.raiseWriteFailure_issued (code : BusStatus) : (s.raise (.busWriteFailure code)).issued = s.issued := rfl
@[simp] theorem State.raiseWriteFailure_hostReads (code : BusStatus) : (s.raise (.busWriteFailure code)).hostReads = s.hostReads := rfl

/-! ## raise, ConversionTimeout -/

@[simp] theorem State.raiseTimeout_state : (s.raise .conversionTimeout).state = .timeout := rfl
@[simp] theorem State.raiseTimeout_pollWait : (s.raise .conversionTimeout).pollWait = s.pollWait := rfl
@[simp] theorem State.raiseTimeout_wstat : (s.raise .conversionTimeout).wstat = s.wstat := rfl
@[simp] theorem State.raiseTimeout_ovf : (s.raise .conversionTimeout).ovf = s.ovf := rfl
@[simp] theorem State.raiseTimeout_startErr : (s.raise .conversionTimeout).startErr = s.startErr := rfl
@[simp] theorem State.raiseTimeout_addr : (s.raise .conversionTimeout).addr = s.addr := rfl
@[simp] theorem State.raiseTimeout_cmd : (s.raise .conversionTimeout).cmd = s.cmd := rfl
@[simp] theorem State.raiseTimeout_timeout : (s.raise .conversionTimeout).timeout = s.timeout := rfl
@[simp] theorem State.raiseTimeout_reqAddr : (s.raise .conversionTimeout).reqAddr = s.reqAddr := rfl
@[simp] theorem State.raiseTimeout_reqCmd : (s.raise .conversionTimeout).reqCmd = s.reqCmd := rfl
@[simp] theorem State.raiseTimeout_reqTimeout : (s.raise .conversionTimeout).reqTimeout = s.reqTimeout := rfl
@[simp] theorem State.raiseTimeout_sr : (s.raise .conversionTimeout).sr = s.sr := rfl
@[simp] theorem State.raiseTimeout_raw : (s.raise .conversionTimeout).raw = s.raw := rfl
@[simp] theorem State.raiseTimeout_result : (s.raise .conversionTimeout).result = s.result := rfl
@[simp] theorem State.raiseTimeout_tickcnt : (s.raise .conversionTimeout).tickcnt = s.tickcnt := rfl
@[simp] theorem State.raiseTimeout_inputs : (s.raise .conversionTimeout).inputs = s.inputs := rfl
@[simp] theorem State.raiseTimeout_history : (s.raise .conversionTimeout).history = s.history := rfl
@[simp] theorem State.raiseTimeout_issued : (s.raise .conversionTimeout).issued = s.issued := rfl
@[simp] theorem State.raiseTimeout_hostReads : (s.raise .conversionTimeout).hostReads = s.hostReads := rfl

/-! ## beginCycle -/

@[simp] theorem State.beginCycle_state : (s.beginCycle).state = .commandSent := rfl
@[simp] theorem State.beginCycle_pollWait : (s.beginCycle).pollWait = false := rfl
@[simp] theorem State.beginCycle_wstat : (s.beginCycle).wstat = .success := rfl
@[simp] theorem State.beginCycle_ovf : (s.beginCycle).ovf = s.ovf := rfl
@[simp] theorem State.beginCycle_startErr : (s.beginCycle).startErr = s.startErr := rfl
@[simp] theorem State.beginCycle_addr : (s.beginCycle).addr = s.addr := rfl
@[simp] theorem State.beginCycle_cmd : (s.beginCycle).cmd = s.cmd := rfl
@[simp] theorem State.beginCycle_timeout : (s.beginCycle).timeout = s.timeout := rfl
@[simp] theorem State.beginCycle_reqAddr : (s.beginCycle).reqAddr = s.addr := rfl
@[simp] theorem State.beginCycle_reqCmd : (s.beginCycle).reqCmd = s.cmd := rfl
@[simp] theorem State.beginCycle_reqTimeout : (s.beginCycle).reqTimeout = s.timeout := rfl
@[simp] theorem State.beginCycle_sr : (s.beginCycle).sr = s.sr := rfl
@[simp] theorem State.beginCycle_raw : (s.beginCycle).raw = s.raw := rfl
@[simp] theorem State.beginCycle_result : (s.beginCycle).result = s.result := rfl
@[simp] theorem State.beginCycle_tickcnt : (s.beginCycle).tickcnt = 0#17 := rfl
@[simp] theorem State.beginCycle_inputs : (s.beginCycle).inputs = s.inputs := rfl
@[simp] theorem State.beginCycle_history : (s.beginCycle).history = s.history := rfl
@[simp] theorem State.beginCycle_issued : (s.beginCycle).issued = s.issued ++ [.write s.addr s.cmd] := rfl
@[simp] theorem State.beginCycle_hostReads : (s.beginCycle).hostReads = s.hostReads := rfl

/-! ## applyReset -/

@[simp] theorem State.applyReset_state : (s.applyReset).state = State.reset.state := rfl
@[simp] theorem State.applyReset_pollWait : (s.applyReset).pollWait = State.reset.pollWait := rfl
@[simp] theorem State.applyReset_wstat : (s.applyReset).wstat = State.reset.wstat := rfl
@[simp] theorem State.applyReset_ovf : (s.applyReset).ovf = State.reset.ovf := rfl
@[simp] theorem State.applyReset_startErr : (s.applyReset).startErr = State.reset.startErr := rfl
@[simp] theorem State.applyReset_addr : (s.applyReset).addr = State.reset.addr := rfl
@[simp] theorem State.applyReset_cmd : (s.applyReset).cmd = State.reset.cmd := rfl
@[simp] theorem State.applyReset_timeout : (s.applyReset).timeout = State.reset.timeout := rfl
@[simp] theorem State.applyReset_reqAddr : (s.applyReset).reqAddr = State.reset.reqAddr := rfl
@[simp] theorem State.applyReset_reqCmd : (s.applyReset).reqCmd = State.reset.reqCmd := rfl
@[simp] theorem State.applyReset_reqTimeout : (s.applyReset).reqTimeout = State.reset.reqTimeout := rfl
@[simp] theorem State.applyReset_sr : (s.applyReset).sr = State.reset.sr := rfl
@[simp] theorem State.applyReset_raw : (s.applyReset).raw = State.reset.raw := rfl
@[simp] theorem State.applyReset_result : (s.applyReset).result = State.reset.result := rfl
@[simp] theorem State.applyReset_tickcnt : (s.applyReset).tickcnt = State.reset.tickcnt := rfl
@[simp] theorem State.applyReset_inputs : (s.applyReset).inputs = s.inputs := rfl
@[simp] theorem State.applyReset_history : (s.applyReset).history = s.history := rfl
@[simp] theorem State.applyReset_issued : (s.applyReset).issued = s.issued := rfl
@[simp] theorem State.applyReset_hostReads : (s.applyReset).hostReads = s.hostReads := rfl

/-! ## The value of each element after reset (R127) -/

@[simp] theorem State.reset_state : State.reset.state = .idle := rfl
@[simp] theorem State.reset_pollWait : State.reset.pollWait = false := rfl
@[simp] theorem State.reset_wstat : State.reset.wstat = .success := rfl
@[simp] theorem State.reset_ovf : State.reset.ovf = .none := rfl
@[simp] theorem State.reset_startErr : State.reset.startErr = false := rfl
@[simp] theorem State.reset_addr : State.reset.addr = 0x00#7 := rfl
@[simp] theorem State.reset_cmd : State.reset.cmd = 0x00#8 := rfl
@[simp] theorem State.reset_timeout : State.reset.timeout = 0#16 := rfl
@[simp] theorem State.reset_reqAddr : State.reset.reqAddr = 0x00#7 := rfl
@[simp] theorem State.reset_reqCmd : State.reset.reqCmd = 0x00#8 := rfl
@[simp] theorem State.reset_reqTimeout : State.reset.reqTimeout = 0#16 := rfl
@[simp] theorem State.reset_sr : State.reset.sr = 0x00000000#32 := rfl
@[simp] theorem State.reset_raw : State.reset.raw = 0x00000000#32 := rfl
@[simp] theorem State.reset_result : State.reset.result = 0x00000000#32 := rfl
@[simp] theorem State.reset_tickcnt : State.reset.tickcnt = 0#17 := rfl
@[simp] theorem State.reset_inputs : State.reset.inputs = [] := rfl
@[simp] theorem State.reset_history : State.reset.history = [] := rfl
@[simp] theorem State.reset_issued : State.reset.issued = [] := rfl
@[simp] theorem State.reset_hostReads : State.reset.hostReads = [] := rfl

end Sys2Proof.Machine
end

