-- ==== Sys2Proof/Laws/Ops.lean ====
section
/-! SUPPORT. What each shared operation can do, said once. -/

namespace Sys2Proof.Machine

/-! ## Derived flags -/

/-- Exactly one of Idle, BUSY and CYCLE_END (R31), as one fact per sequencer state. -/
theorem SeqState.inFlight_or_terminal (q : SeqState) :
    (q = .idle ∧ q.inFlight = false ∧ q.isTerminal = false) ∨
    (q ≠ .idle ∧ q.inFlight = true ∧ q.isTerminal = false) ∨
    (q ≠ .idle ∧ q.inFlight = false ∧ q.isTerminal = true) := by
  cases q <;> simp [SeqState.inFlight, SeqState.isTerminal]

theorem State.busy_iff (s : State) :
    s.busy = true ↔ s.state = .commandSent ∨ s.state = .awaitingConversion ∨ s.state = .reading := by
  cases h : s.state <;> simp [State.busy, SeqState.inFlight, h]

theorem State.inPollWait_iff (s : State) :
    s.inPollWait = true ↔ s.state = .awaitingConversion ∧ s.pollWait = true := by
  simp [State.inPollWait]

theorem State.readPending_iff (s : State) :
    s.readPending = true ↔ s.state = .awaitingConversion ∧ s.pollWait = false := by
  simp [State.readPending]

theorem State.outstanding_write_iff (s : State) :
    (∃ r, s.outstanding = some r ∧ s.state = .commandSent) ↔ s.state = .commandSent := by
  constructor
  · rintro ⟨_, _, h⟩
    exact h
  · intro h
    exact ⟨.write s.reqAddr s.reqCmd, by simp [State.outstanding, h], h⟩

/-! ## START -/

theorem State.requestStart_busy {s : State} (h : s.busy = true) :
    s.requestStart = { s with startErr := true } := by
  simp [State.requestStart, h]

theorem State.requestStart_notBusy {s : State} (h : s.busy = false) : s.requestStart = s.beginCycle := by
  simp [State.requestStart, h]

/-! ## The comparison with the budget -/

theorem exceedsBudget_iff (count : BitVec 17) (budget : BitVec 16) :
    exceedsBudget count budget = true ↔ budget.toNat < count.toNat := by
  have hb : budget.toNat % 131072 = budget.toNat := Nat.mod_eq_of_lt (by omega)
  simp [exceedsBudget, BitVec.ult, BitVec.toNat_setWidth, hb]

/-- The increment of R93 does not wrap where the count is within the budget (R96). -/
theorem tickcnt_succ_toNat {count : BitVec 17} {budget : BitVec 16} (h : count.toNat ≤ budget.toNat + 1) :
    (count + 1#17).toNat = count.toNat + 1 := by
  have := budget.isLt
  simp [BitVec.toNat_add]
  omega

/-! ## The answers and the tick -/

/-- All that taking the answer to a command write can do. -/
theorem takeWriteAnswer_cases (status : BusStatus) (s : State) :
    (s.state ≠ .commandSent ∧ takeWriteAnswer status s = s) ∨
    (s.state = .commandSent ∧ status = .success ∧
      takeWriteAnswer status s =
        { s with
          wstat := .success, state := .awaitingConversion, pollWait := false,
          history := s.history ++ [.write s.reqAddr s.reqCmd .success],
          issued := s.issued ++ [.read4 s.reqAddr] }) ∨
    (s.state = .commandSent ∧ status ≠ .success ∧
      takeWriteAnswer status s =
        { s with
          wstat := status, state := .error, history := s.history ++ [.write s.reqAddr s.reqCmd status] }) := by
  by_cases hs : s.state = .commandSent
  · by_cases hc : status = .success
    · right; left
      subst hc
      exact ⟨hs, rfl, by simp [takeWriteAnswer, hs, State.issue, State.record]⟩
    · right; right
      exact ⟨hs, hc, by simp [takeWriteAnswer, hs, hc, State.raise, State.record]⟩
  · exact .inl ⟨hs, by simp [takeWriteAnswer, hs]⟩

/-- All that taking the answer to a read attempt can do. -/
theorem takeReadAnswer_cases (answer : ReadAnswer) (s : State) :
    (s.readPending = false ∧ takeReadAnswer answer s = s) ∨
    (s.readPending = true ∧ ∃ b0 b1 b2 b3, answer = .four b0 b1 b2 b3 ∧
      takeReadAnswer answer s =
        { s with
          sr := shiftIn4 s.sr b0 b1 b2 b3, state := .reading,
          history := s.history ++ [.read s.reqAddr answer.bytes] }) ∨
    (s.readPending = true ∧ answer.bytes.length < 4 ∧ s.reqTimeout.toNat < (s.tickcnt + 1#17).toNat ∧
      takeReadAnswer answer s =
        { s with
          tickcnt := s.tickcnt + 1#17, state := .timeout,
          history := s.history ++ [.read s.reqAddr answer.bytes] }) ∨
    (s.readPending = true ∧ answer.bytes.length < 4 ∧ (s.tickcnt + 1#17).toNat ≤ s.reqTimeout.toNat ∧
      takeReadAnswer answer s =
        { s with
          tickcnt := s.tickcnt + 1#17, pollWait := true,
          history := s.history ++ [.read s.reqAddr answer.bytes] }) := by
  cases hp : s.readPending with
  | false => exact .inl ⟨rfl, by simp [takeReadAnswer, hp]⟩
  | true =>
    refine .inr ?_
    have failed (hlen : answer.bytes.length < 4)
        (h : takeReadAnswer answer s = (s.record (.read s.reqAddr answer.bytes)).failAttempt) :
        (answer.bytes.length < 4 ∧ s.reqTimeout.toNat < (s.tickcnt + 1#17).toNat ∧
          takeReadAnswer answer s =
            { s with
              tickcnt := s.tickcnt + 1#17, state := .timeout,
              history := s.history ++ [.read s.reqAddr answer.bytes] }) ∨
        (answer.bytes.length < 4 ∧ (s.tickcnt + 1#17).toNat ≤ s.reqTimeout.toNat ∧
          takeReadAnswer answer s =
            { s with
              tickcnt := s.tickcnt + 1#17, pollWait := true,
              history := s.history ++ [.read s.reqAddr answer.bytes] }) := by
      rw [h]
      by_cases hx : exceedsBudget (s.tickcnt + 1#17) s.reqTimeout = true
      · exact .inl ⟨hlen, (exceedsBudget_iff _ _).1 hx, by simp [State.failAttempt, State.record, State.raise, hx]⟩
      · exact .inr ⟨hlen, Nat.le_of_not_lt (mt (exceedsBudget_iff _ _).2 hx),
          by simp [State.failAttempt, State.record, hx]⟩
    cases answer with
    | four b0 b1 b2 b3 => exact .inl ⟨rfl, b0, b1, b2, b3, rfl, by simp [takeReadAnswer, hp, State.record]⟩
    | noData => simpa using failed (by simp [ReadAnswer.bytes]) (by simp [takeReadAnswer, hp])
    | one b0 => simpa using failed (by simp [ReadAnswer.bytes]) (by simp [takeReadAnswer, hp])
    | two b0 b1 => simpa using failed (by simp [ReadAnswer.bytes]) (by simp [takeReadAnswer, hp])
    | three b0 b1 b2 => simpa using failed (by simp [ReadAnswer.bytes]) (by simp [takeReadAnswer, hp])

/-- All that a TICK can do. -/
theorem takeTick_cases (s : State) :
    (s.inPollWait = false ∧ takeTick s = s) ∨
    (s.inPollWait = true ∧
      takeTick s = { s with pollWait := false, issued := s.issued ++ [.read4 s.reqAddr] }) := by
  by_cases h : s.inPollWait = true
  · exact .inr ⟨h, by simp [takeTick, h, State.issue]⟩
  · simp at h
    exact .inl ⟨h, by simp [takeTick, h]⟩

/-! ## The shift register and the sample decoder -/

/-- ShiftIn1 keeps the lower three bytes and takes the new one below them (R98). -/
theorem shiftIn1_eq (sr : Word) (b : Byte) : shiftIn1 sr b = sr.extractLsb' 0 24 ++ b := by
  apply BitVec.eq_of_getLsbD_eq
  intro i hi
  simp only [shiftIn1, BitVec.getLsbD_or, BitVec.getLsbD_shiftLeft, BitVec.getLsbD_setWidth, BitVec.getLsbD_append,
    BitVec.getLsbD_extractLsb', hi, decide_true, Bool.true_and, Nat.zero_add]
  by_cases h : i < 8
  · simp [h]
  · simp [h, show i - 8 < 24 by omega, BitVec.getLsbD_of_ge b i (by omega)]

/-- Four shifts replace the whole register by the bytes in wire order (R99). -/
theorem shiftIn4_eq (sr : Word) (b0 b1 b2 b3 : Byte) : shiftIn4 sr b0 b1 b2 b3 = b0 ++ b1 ++ b2 ++ b3 := by
  simp only [shiftIn4, shiftIn1_eq]
  apply BitVec.eq_of_getLsbD_eq
  intro i hi
  simp only [BitVec.getLsbD_append, BitVec.getLsbD_extractLsb', Nat.zero_add]
  by_cases h1 : i < 8
  · simp only [h1, if_true]
  · by_cases h2 : i - 8 < 8
    · simp only [h1, h2, if_true, if_false, show i - 8 < 24 by omega, decide_true, Bool.true_and]
    · by_cases h3 : i - 8 - 8 < 8
      · simp only [h1, h2, h3, if_true, if_false, show i - 8 < 24 by omega, show i - 8 - 8 < 24 by omega, decide_true,
          Bool.true_and]
      · simp only [h1, h2, h3, if_true, if_false, show i - 8 < 24 by omega, show i - 8 - 8 < 24 by omega,
          show i - 8 - 8 - 8 < 24 by omega, show i - 8 - 8 - 8 < 8 by omega, decide_true, Bool.true_and]

end Sys2Proof.Machine
end

