-- ==== Sys2Proof/Laws/Step.lean ====
section
/-! SUPPORT. What one step can do, said once: the host access, the DECODE step, one event, and the step. -/

namespace Sys2Proof.Machine

/-! ## Host accesses -/

/-- What writing a host register does (R69 to R76). -/
theorem exec_writeInstr (r : HostReg) (data : Word) (s : State) :
    exec (writeInstr r data) s =
      match r with
      | .ctrl => .next (if data.getLsbD 0 then s.requestStart else s)
      | .addr => .next { s with addr := data.extractLsb' 0 7 }
      | .cmd => .next { s with cmd := data.extractLsb' 0 8 }
      | .timeout => .next { s with timeout := data.extractLsb' 0 16 }
      | .status | .raw | .result | .tickcnt => .next s := by
  cases r <;> rfl

/-- What reading a host register does (R77 to R84). -/
theorem exec_readInstr (r : HostReg) (s : State) : exec (readInstr r) s = .next (s.returnToHost r) := by
  cases r <;> rfl

@[simp] theorem HostReg.ofOffset_offset (r : HostReg) : HostReg.ofOffset r.offset = some r := by
  cases r <;> decide

theorem HostReg.offset_of_ofOffset {off : BitVec 5} {r : HostReg} (h : HostReg.ofOffset off = some r) :
    off = r.offset := by
  unfold HostReg.ofOffset at h
  repeat' split at h
  all_goals first
    | (cases h; assumption)
    | cases h

@[simp] theorem haWord_off (write : Bool) (off : BitVec 5) : (haWord write off).extractLsb' 0 5 = off := by
  cases write <;> revert off <;> decide

@[simp] theorem haWord_dir (write : Bool) (off : BitVec 5) : (haWord write off).getLsbD 5 = write := by
  cases write <;> revert off <;> decide

/-- A host access that is not refused is 32 bits wide, in the window, and at a register's offset, and does what that
register's write or read does (R38, R39). -/
theorem takeHostAccess_next {write : Bool} {off n : Nat} {data : Word} {s t : State}
    (h : takeHostAccess write off n data s = .next t) :
    ∃ r : HostReg, n = 4 ∧ off = r.offset.toNat ∧
      .next t = exec (if write then writeInstr r data else readInstr r) s := by
  unfold takeHostAccess at h
  split at h
  · cases h
  · split at h
    · cases h
    · rename_i hn hw
      simp only [decodeHostAcc, haWord_off, haWord_dir] at h
      cases hr : HostReg.ofOffset (BitVec.ofNat 5 off) with
      | none => simp [hr] at h
      | some r =>
        have hoff := congrArg BitVec.toNat (HostReg.offset_of_ofOffset hr)
        refine ⟨r, by simpa using hn, ?_, ?_⟩
        · rw [← hoff, BitVec.toNat_ofNat, Nat.mod_eq_of_lt]
          exact Nat.lt_of_not_le hw
        · cases write <;> simpa [hr] using h.symm

/-- The access of the offset of a register runs that register's instruction (R50). -/
theorem takeHostAccess_reg (write : Bool) (r : HostReg) (data : Word) (s : State) :
    takeHostAccess write r.offset.toNat 4 data s = exec (if write then writeInstr r data else readInstr r) s := by
  have hw : ¬ Config.hwin ≤ r.offset.toNat := by cases r <;> decide
  have ho : BitVec.ofNat 5 r.offset.toNat = r.offset := by simp
  unfold takeHostAccess decodeHostAcc
  rw [if_neg (by simp), if_neg hw, ho, haWord_off, haWord_dir, HostReg.ofOffset_offset]
  cases write <;> rfl

/-- All that a host access can do to the block: a START request, a new ADDR, CMD or TIMEOUT, a word returned to the
host, or nothing. -/
theorem takeHostAccess_cases {write : Bool} {off n : Nat} {data : Word} {s t : State}
    (h : takeHostAccess write off n data s = .next t) :
    t = s ∨
    (write = true ∧ off = 0 ∧ n = 4 ∧ data.getLsbD 0 = true ∧ t = s.requestStart) ∨
    (write = true ∧ off = 8 ∧ t = { s with addr := data.extractLsb' 0 7 }) ∨
    (write = true ∧ off = 12 ∧ t = { s with cmd := data.extractLsb' 0 8 }) ∨
    (write = true ∧ off = 16 ∧ t = { s with timeout := data.extractLsb' 0 16 }) ∨
    (write = false ∧ ∃ r, t = s.returnToHost r) := by
  obtain ⟨r, rfl, rfl, ht⟩ := takeHostAccess_next h
  clear h
  cases write with
  | false =>
    rw [if_neg Bool.false_ne_true, exec_readInstr, Host.Outcome.next.injEq] at ht
    exact .inr (.inr (.inr (.inr (.inr ⟨rfl, r, ht⟩))))
  | true =>
    rw [if_pos rfl, exec_writeInstr] at ht
    cases r <;> simp only [Host.Outcome.next.injEq] at ht
    case ctrl =>
      cases hb : data.getLsbD 0 <;> simp only [hb, Bool.false_eq_true, if_false, if_true] at ht
      · exact .inl ht
      · exact .inr (.inl ⟨rfl, rfl, rfl, rfl, ht⟩)
    case addr => exact .inr (.inr (.inl ⟨rfl, rfl, ht⟩))
    case cmd => exact .inr (.inr (.inr (.inl ⟨rfl, rfl, ht⟩)))
    case timeout => exact .inr (.inr (.inr (.inr (.inl ⟨rfl, rfl, ht⟩))))
    all_goals exact .inl ht

/-! ## The DECODE step -/

/-- DECODE in Reading always completes: RAW takes SR, RESULT and OVF are set, and the cycle is Done (R108). -/
theorem runDecode_reading {s : State} (h : s.state = .reading) :
    ∃ result ovf, runDecode s = .next { s with raw := s.sr, result := result, ovf := ovf, state := .done } ∧
      ((posFlag s.sr = true ∧ result = Config.posSat ∧ ovf = .positive) ∨
       (negFlag s.sr = true ∧ result = Config.negSat ∧ ovf = .negative) ∨
       (posFlag s.sr = false ∧ negFlag s.sr = false ∧ result = extractSample s.sr ∧ ovf = .none)) := by
  by_cases hp : s.sr.extractLsb' 24 8 = 0xC0#8
  · exact ⟨Config.posSat, .positive, by simp [runDecode, h, decodeRaw32, hp, exec, execDecPosovf],
      .inl ⟨by simp [posFlag, msbByte, hp], rfl, rfl⟩⟩
  · by_cases hn : s.sr.extractLsb' 24 8 = 0x3F#8
    · exact ⟨Config.negSat, .negative, by simp [runDecode, h, decodeRaw32, hn, exec, execDecNegovf],
        .inr (.inl ⟨by simp [negFlag, msbByte, hn], rfl, rfl⟩)⟩
    · exact ⟨extractSample s.sr, .none, by simp [runDecode, h, decodeRaw32, hp, hn, exec, execDecNormal],
        .inr (.inr ⟨by simp [posFlag, msbByte, hp], by simp [negFlag, msbByte, hn], rfl, rfl⟩)⟩

theorem runDecode_notReading {s : State} (h : s.state ≠ .reading) : runDecode s = .next s := by
  simp [runDecode, h]

/-! ## The step -/

theorem step_event {s : State} {e : Event} {rest : List Event} (h : s.inputs = e :: rest) :
    step s = takeEvent e { s with inputs := rest } := by
  simp [step, h]

theorem step_noEvent {s : State} (h : s.inputs = []) : step s = controllerTurn s := by
  simp [step, h]

/-- One step of a run. -/
theorem core_run_succ {s t : State} (n : Nat) (h : step s = .next t) :
    Sys2Proof.core.run (n + 1) s = Sys2Proof.core.run n t := by
  have h' : Sys2Proof.core.step s = .next t := h
  simp only [Host.Core.run, h']

/-- A step that goes on takes the oldest event, or, with none left, DECODE in Reading. -/
theorem step_next {s t : State} (h : step s = .next t) :
    (∃ e rest, s.inputs = e :: rest ∧ takeEvent e { s with inputs := rest } = .next t) ∨
    (s.inputs = [] ∧ s.state = .reading ∧ runDecode s = .next t) := by
  cases hi : s.inputs with
  | cons e rest =>
    rw [step_event hi] at h
    exact .inl ⟨e, rest, rfl, h⟩
  | nil =>
    rw [step_noEvent hi, controllerTurn] at h
    split at h
    · exact .inr ⟨rfl, ‹_›, h⟩
    · cases h

/-- Only a host access can be refused: every other event goes on (R39). -/
theorem takeEvent_refused {e : Event} {s : State} {r : Refusal} (h : takeEvent e s = .refused r) :
    ∃ write off n data, takeHostAccess write off n data s = .refused r := by
  cases e with
  | hostWr off n data => exact ⟨true, off, n, data, h⟩
  | hostRd off n => exact ⟨false, off, n, 0#32, h⟩
  | decode =>
    by_cases hr : s.state = .reading
    · obtain ⟨_, _, hd, _⟩ := runDecode_reading hr
      simp [takeEvent, hd] at h
    · simp [takeEvent, runDecode_notReading hr] at h
  | busWriteResp status => cases h
  | busReadResp answer => cases h
  | tick => cases h
  | reset => cases h

/-! ## All that a step can do -/

/-- The effects a step that goes on can have, one case each, with the event that drives it and the whole next state. -/
inductive StepEffect (s t : State) : Prop where
  | hostNothing (off n : Nat) (data : Word) (rest : List Event) (head : s.inputs = .hostWr off n data :: rest)
      (noStart : acceptsStart s (.hostWr off n data) = false) (next : t = { s with inputs := rest })
  | startAccepted (data : Word) (rest : List Event) (head : s.inputs = .hostWr 0 4 data :: rest)
      (bit0 : data.getLsbD 0 = true) (free : s.busy = false)
      (next : t = { s with
        inputs := rest, reqAddr := s.addr, reqCmd := s.cmd, reqTimeout := s.timeout, tickcnt := 0#17,
        wstat := .success, pollWait := false, state := .commandSent,
        issued := s.issued ++ [.write s.addr s.cmd] })
  | startRejected (data : Word) (rest : List Event) (head : s.inputs = .hostWr 0 4 data :: rest)
      (bit0 : data.getLsbD 0 = true) (busy : s.busy = true) (next : t = { s with inputs := rest, startErr := true })
  | addrWritten (n : Nat) (data : Word) (rest : List Event) (head : s.inputs = .hostWr 8 n data :: rest)
      (next : t = { s with inputs := rest, addr := data.extractLsb' 0 7 })
  | cmdWritten (n : Nat) (data : Word) (rest : List Event) (head : s.inputs = .hostWr 12 n data :: rest)
      (next : t = { s with inputs := rest, cmd := data.extractLsb' 0 8 })
  | timeoutWritten (n : Nat) (data : Word) (rest : List Event) (head : s.inputs = .hostWr 16 n data :: rest)
      (next : t = { s with inputs := rest, timeout := data.extractLsb' 0 16 })
  | wordReturned (off n : Nat) (r : HostReg) (rest : List Event) (head : s.inputs = .hostRd off n :: rest)
      (next : t = { s with inputs := rest, hostReads := s.hostReads ++ [⟨r, s.hostValue r⟩] })
  | writeAnswerDropped (code : BusStatus) (rest : List Event) (head : s.inputs = .busWriteResp code :: rest)
      (notSent : s.state ≠ .commandSent) (next : t = { s with inputs := rest })
  | writeSucceeded (rest : List Event) (head : s.inputs = .busWriteResp .success :: rest)
      (sent : s.state = .commandSent)
      (next : t = { s with
        inputs := rest, wstat := .success, state := .awaitingConversion, pollWait := false,
        history := s.history ++ [.write s.reqAddr s.reqCmd .success],
        issued := s.issued ++ [.read4 s.reqAddr] })
  | writeFailed (code : BusStatus) (rest : List Event) (head : s.inputs = .busWriteResp code :: rest)
      (sent : s.state = .commandSent) (failed : code ≠ .success)
      (next : t = { s with
        inputs := rest, wstat := code, state := .error,
        history := s.history ++ [.write s.reqAddr s.reqCmd code] })
  | readAnswerDropped (answer : ReadAnswer) (rest : List Event) (head : s.inputs = .busReadResp answer :: rest)
      (notPending : s.state ≠ .awaitingConversion ∨ s.pollWait = true) (next : t = { s with inputs := rest })
  | readSucceeded (b0 b1 b2 b3 : Byte) (rest : List Event)
      (head : s.inputs = .busReadResp (.four b0 b1 b2 b3) :: rest)
      (waiting : s.state = .awaitingConversion) (pending : s.pollWait = false)
      (next : t = { s with
        inputs := rest, sr := b0 ++ b1 ++ b2 ++ b3, state := .reading,
        history := s.history ++ [.read s.reqAddr [b0, b1, b2, b3]] })
  | readTimedOut (answer : ReadAnswer) (rest : List Event) (head : s.inputs = .busReadResp answer :: rest)
      (waiting : s.state = .awaitingConversion) (pending : s.pollWait = false) (short : answer.bytes.length < 4)
      (exceeded : s.reqTimeout.toNat < (s.tickcnt + 1#17).toNat)
      (next : t = { s with
        inputs := rest, tickcnt := s.tickcnt + 1#17, state := .timeout,
        history := s.history ++ [.read s.reqAddr answer.bytes] })
  | readToRetry (answer : ReadAnswer) (rest : List Event) (head : s.inputs = .busReadResp answer :: rest)
      (waiting : s.state = .awaitingConversion) (pending : s.pollWait = false) (short : answer.bytes.length < 4)
      (within : (s.tickcnt + 1#17).toNat ≤ s.reqTimeout.toNat)
      (next : t = { s with
        inputs := rest, tickcnt := s.tickcnt + 1#17, pollWait := true,
        history := s.history ++ [.read s.reqAddr answer.bytes] })
  | tickDropped (rest : List Event) (head : s.inputs = .tick :: rest)
      (notWaiting : s.state ≠ .awaitingConversion ∨ s.pollWait = false) (next : t = { s with inputs := rest })
  | tickTaken (rest : List Event) (head : s.inputs = .tick :: rest) (waiting : s.state = .awaitingConversion)
      (polling : s.pollWait = true)
      (next : t = { s with inputs := rest, pollWait := false, issued := s.issued ++ [.read4 s.reqAddr] })
  | decodeDropped (rest : List Event) (head : s.inputs = .decode :: rest) (notReading : s.state ≠ .reading)
      (next : t = { s with inputs := rest })
  | decoded (rest : List Event) (result : Word) (ovf : Ovf) (head : s.inputs = .decode :: rest)
      (reading : s.state = .reading)
      (value : (posFlag s.sr = true ∧ result = Config.posSat ∧ ovf = .positive) ∨
        (negFlag s.sr = true ∧ result = Config.negSat ∧ ovf = .negative) ∨
        (posFlag s.sr = false ∧ negFlag s.sr = false ∧ result = extractSample s.sr ∧ ovf = .none))
      (next : t = { s with inputs := rest, raw := s.sr, result := result, ovf := ovf, state := .done })
  | decodedUnprompted (result : Word) (ovf : Ovf) (head : s.inputs = []) (reading : s.state = .reading)
      (value : (posFlag s.sr = true ∧ result = Config.posSat ∧ ovf = .positive) ∨
        (negFlag s.sr = true ∧ result = Config.negSat ∧ ovf = .negative) ∨
        (posFlag s.sr = false ∧ negFlag s.sr = false ∧ result = extractSample s.sr ∧ ovf = .none))
      (next : t = { s with raw := s.sr, result := result, ovf := ovf, state := .done })
  | wasReset (rest : List Event) (head : s.inputs = .reset :: rest)
      (next : t = { s with inputs := rest }.applyReset)

/-- A host access that goes on, as an effect of the step that takes it. -/
theorem stepEffect_hostWr {s t : State} {off n : Nat} {data : Word} {rest : List Event}
    (head : s.inputs = .hostWr off n data :: rest)
    (h : takeHostAccess true off n data { s with inputs := rest } = .next t) : StepEffect s t := by
  obtain rfl | ⟨-, rfl, rfl, hb, rfl⟩ | ⟨-, rfl, rfl⟩ | ⟨-, rfl, rfl⟩ | ⟨-, rfl, rfl⟩ | ⟨hw, -⟩ :=
    takeHostAccess_cases h
  · cases hst : acceptsStart s (.hostWr off n data) with
    | false => exact .hostNothing off n data rest head hst rfl
    | true =>
      simp only [acceptsStart, Bool.and_eq_true, beq_iff_eq, Bool.not_eq_true'] at hst
      obtain ⟨⟨⟨rfl, rfl⟩, hb⟩, hf⟩ := hst
      have hx := takeHostAccess_reg true .ctrl data { s with inputs := rest }
      rw [if_pos rfl, exec_writeInstr] at hx
      simp only [hb, if_true] at hx
      have heq : { s with inputs := rest } = ({ s with inputs := rest } : State).requestStart :=
        Host.Outcome.next.inj (h.symm.trans hx)
      rw [State.requestStart_notBusy (s := { s with inputs := rest }) hf] at heq
      have := congrArg (fun u => u.issued.length) heq
      simp at this
  · cases hbusy : s.busy with
    | false => exact .startAccepted data rest head hb hbusy (State.requestStart_notBusy hbusy)
    | true => exact .startRejected data rest head hb hbusy (State.requestStart_busy hbusy)
  · exact .addrWritten n data rest head rfl
  · exact .cmdWritten n data rest head rfl
  · exact .timeoutWritten n data rest head rfl
  · cases hw

/-- The inversion of `step`: every step that goes on has one of the effects above. -/
theorem step_effect {s t : State} (h : step s = .next t) : StepEffect s t := by
  obtain ⟨e, rest, hi, h⟩ | ⟨hi, hr, h⟩ := step_next h
  · cases e with
    | hostWr off n data => exact stepEffect_hostWr hi h
    | hostRd off n =>
      obtain ⟨r, -, -, ht⟩ := takeHostAccess_next h
      rw [if_neg Bool.false_ne_true, exec_readInstr] at ht
      exact .wordReturned off n r rest hi (Host.Outcome.next.inj ht)
    | busWriteResp code =>
      have ht : takeWriteAnswer code { s with inputs := rest } = t := Host.Outcome.next.inj h
      obtain ⟨hs, he⟩ | ⟨hs, rfl, he⟩ | ⟨hs, hc, he⟩ := takeWriteAnswer_cases code { s with inputs := rest }
      · exact .writeAnswerDropped code rest hi hs (ht.symm.trans he)
      · exact .writeSucceeded rest hi hs (ht.symm.trans he)
      · exact .writeFailed code rest hi hs hc (ht.symm.trans he)
    | busReadResp answer =>
      have ht : takeReadAnswer answer { s with inputs := rest } = t := Host.Outcome.next.inj h
      obtain ⟨hp, he⟩ | ⟨hp, b0, b1, b2, b3, rfl, he⟩ | ⟨hp, hl, hx, he⟩ | ⟨hp, hl, hx, he⟩ :=
        takeReadAnswer_cases answer { s with inputs := rest }
      · refine .readAnswerDropped answer rest hi ?_ (ht.symm.trans he)
        by_contra hn
        simp only [not_or, Bool.not_eq_true, ne_eq, not_not] at hn
        exact Bool.false_ne_true (hp.symm.trans ((State.readPending_iff _).2 hn))
      · have hq := (State.readPending_iff _).1 hp
        rw [shiftIn4_eq] at he
        exact .readSucceeded b0 b1 b2 b3 rest hi hq.1 hq.2 (ht.symm.trans he)
      · have hq := (State.readPending_iff _).1 hp
        exact .readTimedOut answer rest hi hq.1 hq.2 hl hx (ht.symm.trans he)
      · have hq := (State.readPending_iff _).1 hp
        exact .readToRetry answer rest hi hq.1 hq.2 hl hx (ht.symm.trans he)
    | tick =>
      have ht : takeTick { s with inputs := rest } = t := Host.Outcome.next.inj h
      obtain ⟨hp, he⟩ | ⟨hp, he⟩ := takeTick_cases { s with inputs := rest }
      · refine .tickDropped rest hi ?_ (ht.symm.trans he)
        by_contra hn
        simp only [not_or, Bool.not_eq_false, ne_eq, not_not] at hn
        exact Bool.false_ne_true (hp.symm.trans ((State.inPollWait_iff _).2 hn))
      · have hq := (State.inPollWait_iff _).1 hp
        exact .tickTaken rest hi hq.1 hq.2 (ht.symm.trans he)
    | decode =>
      by_cases hr : s.state = .reading
      · obtain ⟨result, ovf, hd, hv⟩ := runDecode_reading (s := { s with inputs := rest }) hr
        exact .decoded rest result ovf hi hr hv (Host.Outcome.next.inj (h.symm.trans hd))
      · exact .decodeDropped rest hi hr
          (Host.Outcome.next.inj (h.symm.trans (runDecode_notReading (s := { s with inputs := rest }) hr)))
    | reset => exact .wasReset rest hi (Host.Outcome.next.inj h).symm
  · obtain ⟨result, ovf, hd, hv⟩ := runDecode_reading hr
    exact .decodedUnprompted result ovf hi hr hv (Host.Outcome.next.inj (h.symm.trans hd))

end Sys2Proof.Machine
end

