-- ==== Sys2Proof/Laws/HostProgram.lean ====
section
/-! SUPPORT. What a host program's line does to the block, and that an event does not look at the events after it. -/

namespace Sys2Proof.Machine

/-! ## Host programs -/

/-- A line's access is the instruction of the line (R67). -/
theorem takeEvent_hostOp (op : HostOp) (s : State) : takeEvent op.event s = exec op.instr s := by
  cases op with
  | wr reg imm => exact takeHostAccess_reg true reg imm s
  | rd reg => exact takeHostAccess_reg false reg 0#32 s
  | readStatusUntilEnd => exact takeHostAccess_reg false .status 0#32 s
  | readResultIfDone => exact takeHostAccess_reg false .result 0#32 s

@[simp] theorem State.lastStatus_returnToHost_status (s : State) :
    (s.returnToHost .status).lastStatus = s.statusWord := by
  simp [State.lastStatus, State.returnToHost, State.hostValue]

theorem State.lastStatus_returnToHost {r : HostReg} (h : r ≠ .status) (s : State) :
    (s.returnToHost r).lastStatus = s.lastStatus := by
  simp [State.lastStatus, State.returnToHost, h]

@[simp] theorem statusWord_state (s : State) : s.statusWord.extractLsb' 0 3 = seqCode s.state := by
  cases h : s.state <;> cases h2 : s.pollWait <;> cases h3 : s.startErr <;> cases h4 : s.ovf <;> cases h5 : s.wstat <;>
    simp only [State.statusWord, State.busy, h, h2, h3, h4, h5] <;> decide

/-! ## The events after the one taken -/

theorem State.requestStart_inputs (s : State) (l : List Event) :
    ({ s with inputs := l } : State).requestStart = { s.requestStart with inputs := l } := by
  cases h : s.busy with
  | false => rw [State.requestStart_notBusy h, State.requestStart_notBusy (s := { s with inputs := l }) h]; rfl
  | true => rw [State.requestStart_busy h, State.requestStart_busy (s := { s with inputs := l }) h]

/-- Host accesses act alike whatever events are still to come. -/
theorem takeHostAccess_inputs (write : Bool) (off n : Nat) (data : Word) (s : State) (l : List Event) :
    takeHostAccess write off n data { s with inputs := l } =
      match takeHostAccess write off n data s with
      | .next t => .next { t with inputs := l }
      | .fault f => .fault f
      | .refused r => .refused r := by
  unfold takeHostAccess
  split
  · rfl
  split
  · rfl
  simp only [decodeHostAcc, haWord_off, haWord_dir]
  cases HostReg.ofOffset (BitVec.ofNat 5 off) with
  | none => rfl
  | some r =>
    cases write with
    | false => simp only [Bool.false_eq_true, if_false, exec_readInstr]; rfl
    | true =>
      simp only [if_true, exec_writeInstr]
      cases r <;> try rfl
      simp only [State.requestStart_inputs]
      cases data.getLsbD 0 <;> rfl

theorem takeWriteAnswer_inputs (code : BusStatus) (s : State) (l : List Event) :
    takeWriteAnswer code { s with inputs := l } = { takeWriteAnswer code s with inputs := l } := by
  by_cases h : s.state = .commandSent <;> by_cases hc : code = .success <;>
    simp [takeWriteAnswer, State.record, State.issue, State.raise, h, hc]

theorem State.failAttempt_inputs (s : State) (l : List Event) :
    ({ s with inputs := l } : State).failAttempt = { s.failAttempt with inputs := l } := by
  by_cases h : exceedsBudget (s.tickcnt + 1#17) s.reqTimeout = true <;> simp [State.failAttempt, State.raise, h]

theorem takeReadAnswer_inputs (answer : ReadAnswer) (s : State) (l : List Event) :
    takeReadAnswer answer { s with inputs := l } = { takeReadAnswer answer s with inputs := l } := by
  unfold takeReadAnswer
  by_cases h : s.readPending = true
  · rw [if_pos h, if_pos (show ({ s with inputs := l } : State).readPending = true from h)]
    cases answer with
    | four b0 b1 b2 b3 => rfl
    | noData => exact State.failAttempt_inputs (s.record _) l
    | one b0 => exact State.failAttempt_inputs (s.record _) l
    | two b0 b1 => exact State.failAttempt_inputs (s.record _) l
    | three b0 b1 b2 => exact State.failAttempt_inputs (s.record _) l
  · rw [if_neg h, if_neg (show ¬({ s with inputs := l } : State).readPending = true from h)]

theorem takeTick_inputs (s : State) (l : List Event) :
    takeTick { s with inputs := l } = { takeTick s with inputs := l } := by
  unfold takeTick
  by_cases h : s.inPollWait = true
  · rw [if_pos h, if_pos (show ({ s with inputs := l } : State).inPollWait = true from h)]; rfl
  · rw [if_neg h, if_neg (show ¬({ s with inputs := l } : State).inPollWait = true from h)]

/-- An event acts alike whatever events are still to come. -/
theorem takeEvent_inputs (e : Event) (s : State) (l : List Event) :
    takeEvent e { s with inputs := l } =
      match takeEvent e s with
      | .next t => .next { t with inputs := l }
      | .fault f => .fault f
      | .refused r => .refused r := by
  cases e with
  | hostWr off n data => exact takeHostAccess_inputs true off n data s l
  | hostRd off n => exact takeHostAccess_inputs false off n 0#32 s l
  | busWriteResp code => exact congrArg Host.Outcome.next (takeWriteAnswer_inputs code s l)
  | busReadResp answer => exact congrArg Host.Outcome.next (takeReadAnswer_inputs answer s l)
  | tick => exact congrArg Host.Outcome.next (takeTick_inputs s l)
  | decode =>
    by_cases h : s.state = .reading
    · by_cases hp : s.sr.extractLsb' 24 8 = 0xC0#8 <;> by_cases hn : s.sr.extractLsb' 24 8 = 0x3F#8 <;>
        simp [takeEvent, runDecode, h, decodeRaw32, hp, hn, exec, execDecPosovf, execDecNegovf, execDecNormal]
    · simp only [takeEvent, runDecode, h, if_false]
  | reset => rfl

end Sys2Proof.Machine
end

