-- ==== Sys2Proof/Laws/PerInstr.lean ====
section
/-! SUPPORT. The family EncodingLength: how many bytes each instruction takes (R66). -/

namespace Sys2Proof.Laws.EncodingLength

/-- The length R66 gives: a host access is HA and, for a write, four data bytes; a command write has one payload byte;
a raw sample is 4 bytes; a command byte is one byte. -/
def Statement (i : Instr) : Prop :=
  (encode i).length =
    match formatOf i with
    | .hostAcc => if ((encode i).headD 0#8).getLsbD 5 then 5 else 1
    | .busReq => if ((encode i).headD 0#8).getLsbD 0 then 1 else 2
    | .raw32 => 4
    | .cmd8 _ => 1

theorem hostWrite_length (r : HostReg) (data : Word) :
    (hostWriteBytes r data).length = if ((hostWriteBytes r data).headD 0#8).getLsbD 5 then 5 else 1 := by
  have h : (haByte true r.offset).getLsbD 5 = true := by cases r <;> decide
  exact (if_pos h).symm

theorem hostRead_length (r : HostReg) :
    (hostReadBytes r).length = if ((hostReadBytes r).headD 0#8).getLsbD 5 then 5 else 1 := by
  have h : ¬ (haByte false r.offset).getLsbD 5 = true := by cases r <;> decide
  exact (if_neg h).symm

theorem wrCtrl (data : Word) : Statement (.wrCtrl data) := hostWrite_length .ctrl data

theorem wrStatus (data : Word) : Statement (.wrStatus data) := hostWrite_length .status data

theorem wrAddr (data : Word) : Statement (.wrAddr data) := hostWrite_length .addr data

theorem wrCmd (data : Word) : Statement (.wrCmd data) := hostWrite_length .cmd data

theorem wrTimeout (data : Word) : Statement (.wrTimeout data) := hostWrite_length .timeout data

theorem wrRaw (data : Word) : Statement (.wrRaw data) := hostWrite_length .raw data

theorem wrResult (data : Word) : Statement (.wrResult data) := hostWrite_length .result data

theorem wrTickcnt (data : Word) : Statement (.wrTickcnt data) := hostWrite_length .tickcnt data

theorem rdCtrl : Statement .rdCtrl := hostRead_length .ctrl

theorem rdStatus : Statement .rdStatus := hostRead_length .status

theorem rdAddr : Statement .rdAddr := hostRead_length .addr

theorem rdCmd : Statement .rdCmd := hostRead_length .cmd

theorem rdTimeout : Statement .rdTimeout := hostRead_length .timeout

theorem rdRaw : Statement .rdRaw := hostRead_length .raw

theorem rdResult : Statement .rdResult := hostRead_length .result

theorem rdTickcnt : Statement .rdTickcnt := hostRead_length .tickcnt

theorem busWriteCmd (a : BusAddr) (payload : Byte) : Statement (.busWriteCmd a payload) := by
  have h : ¬ (brwWord a false).getLsbD 0 = true := by revert a; decide
  exact (if_neg h).symm

theorem busRead4 (a : BusAddr) : Statement (.busRead4 a) := by
  have h : (brwWord a true).getLsbD 0 = true := by revert a; decide
  exact (if_pos h).symm

theorem decPosovf (low : BitVec 24) : Statement (.decPosovf low) := rfl

theorem decNegovf (low : BitVec 24) : Statement (.decNegovf low) := rfl

theorem decNormal (marker : BitVec 1) (data : BitVec 24) (sub : BitVec 7) : Statement (.decNormal marker data sub) := rfl

theorem cmdSpd1x (b : Byte) : Statement (.cmdSpd1x b) := rfl

theorem cmdSpd2x (b : Byte) : Statement (.cmdSpd2x b) := rfl

theorem cmdFr5060hz (b : Byte) : Statement (.cmdFr5060hz b) := rfl

theorem cmdFr50hz (b : Byte) : Statement (.cmdFr50hz b) := rfl

theorem cmdFr60hz (b : Byte) : Statement (.cmdFr60hz b) := rfl

theorem cmdFrReserved (b : Byte) : Statement (.cmdFrReserved b) := rfl

theorem cmdImExternal (b : Byte) : Statement (.cmdImExternal b) := rfl

theorem cmdImInternalTemp (b : Byte) : Statement (.cmdImInternalTemp b) := rfl

theorem cmdReservedHi (b : Byte) : Statement (.cmdReservedHi b) := rfl

end Sys2Proof.Laws.EncodingLength
end

