-- ==== Sys2Proof/Tests/Slice0.lean ====
section
/-! SUPPORT. Tests and witnesses. Expected values come from the spec's own tables, examples and vectors
(95_test_vectors.md, cited by their ids); a `witness_` theorem shows operands that meet every hypothesis of the
obligation it names. -/

namespace Sys2Proof.Tests

open Sys2Proof Sys2Proof.Machine

/-! ## Helpers -/

/-- A block in state `q` with the request of 95_test_vectors.md section 2.7 (0x14, 0x04, T = 3) and these events
ahead. -/
def block (q : SeqState) (pollWait : Bool) (count : BitVec 17) (inputs : List Event) : State :=
  { State.reset with
    state := q, pollWait := pollWait, tickcnt := count, inputs := inputs,
    addr := 0x14#7, cmd := 0x04#8, timeout := 3#16, reqAddr := 0x14#7, reqCmd := 0x04#8, reqTimeout := 3#16 }

/-- The block of `block` with this word in SR, in Reading, DECODE next. -/
def sampled (sr : Word) : State := { block .reading false 0#17 [.decode] with sr := sr }

/-- What a step that goes on leaves, read through `f`. -/
def seen {α : Type} (f : State → α) (s : State) : Option α :=
  match step s with
  | .next t => some (f t)
  | .fault _ => none
  | .refused _ => none

/-- The word the last host read returned. -/
def answered (s : State) : Option Word := (seen (fun t => t.hostReads.getLast?.map HostRead.data) s).join

/-! ## WellFormed: an ill-formed term for each check -/

theorem test_wellFormed_refuses_decNormal_of_posovf : wellFormed (.decNormal 1#1 0x800000#24 0#7) = false := by decide
theorem test_wellFormed_refuses_decNormal_of_negovf : wellFormed (.decNormal 0#1 0x7E0000#24 0#7) = false := by decide
theorem test_wellFormed_refuses_cmdSpd1x : wellFormed (.cmdSpd1x 0x01#8) = false := by decide
theorem test_wellFormed_refuses_cmdSpd2x : wellFormed (.cmdSpd2x 0x0E#8) = false := by decide
theorem test_wellFormed_refuses_cmdFr5060hz : wellFormed (.cmdFr5060hz 0x04#8) = false := by decide
theorem test_wellFormed_refuses_cmdFr50hz : wellFormed (.cmdFr50hz 0x04#8) = false := by decide
theorem test_wellFormed_refuses_cmdFr60hz : wellFormed (.cmdFr60hz 0x06#8) = false := by decide
theorem test_wellFormed_refuses_cmdFrReserved : wellFormed (.cmdFrReserved 0x02#8) = false := by decide
theorem test_wellFormed_refuses_cmdImExternal : wellFormed (.cmdImExternal 0x0D#8) = false := by decide
theorem test_wellFormed_refuses_cmdImInternalTemp : wellFormed (.cmdImInternalTemp 0xF7#8) = false := by decide

/-! ## Decoding, one written-out word for each constructor -/

/-- R50: the eight write words `0x20 | off`; data bytes in lane order. -/
theorem test_decode_host_writes :
    decode .hostAcc [0b00100000#8, 0x01#8, 0x00#8, 0x00#8, 0x00#8] = .ok (.wrCtrl 0x00000001#32, []) ∧
    decode .hostAcc [0b00100100#8, 0x00#8, 0x00#8, 0x00#8, 0x00#8] = .ok (.wrStatus 0x00000000#32, []) ∧
    decode .hostAcc [0b00101000#8, 0xFF#8, 0x00#8, 0x00#8, 0x00#8] = .ok (.wrAddr 0x000000FF#32, []) ∧
    decode .hostAcc [0b00101100#8, 0x34#8, 0x12#8, 0x00#8, 0x00#8] = .ok (.wrCmd 0x00001234#32, []) ∧
    decode .hostAcc [0b00110000#8, 0x45#8, 0x23#8, 0x01#8, 0x00#8] = .ok (.wrTimeout 0x00012345#32, []) ∧
    decode .hostAcc [0b00110100#8, 0x00#8, 0x00#8, 0x00#8, 0xC0#8] = .ok (.wrRaw 0xC0000000#32, []) ∧
    decode .hostAcc [0b00111000#8, 0x00#8, 0x00#8, 0x00#8, 0x00#8] = .ok (.wrResult 0x00000000#32, []) ∧
    decode .hostAcc [0b00111100#8, 0x00#8, 0x00#8, 0x00#8, 0x00#8] = .ok (.wrTickcnt 0x00000000#32, []) :=
  ⟨rfl, rfl, rfl, rfl, rfl, rfl, rfl, rfl⟩

/-- R50: the eight read words `off`. -/
theorem test_decode_host_reads :
    decode .hostAcc [0b00000000#8] = .ok (.rdCtrl, []) ∧ decode .hostAcc [0b00000100#8] = .ok (.rdStatus, []) ∧
    decode .hostAcc [0b00001000#8] = .ok (.rdAddr, []) ∧ decode .hostAcc [0b00001100#8] = .ok (.rdCmd, []) ∧
    decode .hostAcc [0b00010000#8] = .ok (.rdTimeout, []) ∧ decode .hostAcc [0b00010100#8] = .ok (.rdRaw, []) ∧
    decode .hostAcc [0b00011000#8] = .ok (.rdResult, []) ∧ decode .hostAcc [0b00011100#8] = .ok (.rdTickcnt, []) :=
  ⟨rfl, rfl, rfl, rfl, rfl, rfl, rfl, rfl⟩

/-- R63: `aaaaaaa0` with a payload byte and `aaaaaaa1`, at the top address and at the one of R85 and R90. -/
theorem test_decode_bus_requests :
    decode .busReq [0b11111110#8, 0x04#8] = .ok (.busWriteCmd 0x7F#7 0x04#8, []) ∧
    decode .busReq [0b00101000#8, 0x04#8, 0xAA#8] = .ok (.busWriteCmd 0x14#7 0x04#8, [0xAA#8]) ∧
    decode .busReq [0b00101001#8] = .ok (.busRead4 0x14#7, []) := ⟨rfl, rfl, rfl⟩

/-- R61, R64: one word of each case; T-D17's marker, data and sub-LSB fields. -/
theorem test_decode_raw_samples :
    decode .raw32 [0b11000000#8, 0x12#8, 0x34#8, 0x56#8] = .ok (.decPosovf 0x123456#24, []) ∧
    decode .raw32 [0b00111111#8, 0xFF#8, 0xFF#8, 0xFF#8] = .ok (.decNegovf 0xFFFFFF#24, []) ∧
    decode .raw32 [0b10000000#8, 0x01#8, 0xF4#8, 0x00#8] = .ok (.decNormal 1#1 0x0003E8#24 0#7, []) ∧
    decode .raw32 [0b11000001#8, 0x00#8, 0x00#8, 0x00#8] = .ok (.decNormal 1#1 0x820000#24 0#7, []) := by
  refine ⟨rfl, rfl, rfl, rfl⟩

/-- R56: the nine rows of the command byte. -/
theorem test_decode_command_fields :
    decodeCmd8 .spd 0b00000000#8 = .cmdSpd1x 0x00#8 ∧ decodeCmd8 .spd 0b00000001#8 = .cmdSpd2x 0x01#8 ∧
    decodeCmd8 .fr 0b00000000#8 = .cmdFr5060hz 0x00#8 ∧ decodeCmd8 .fr 0b00000010#8 = .cmdFr50hz 0x02#8 ∧
    decodeCmd8 .fr 0b00000100#8 = .cmdFr60hz 0x04#8 ∧ decodeCmd8 .fr 0b00000110#8 = .cmdFrReserved 0x06#8 ∧
    decodeCmd8 .im 0b00000000#8 = .cmdImExternal 0x00#8 ∧
    decodeCmd8 .im 0b00001000#8 = .cmdImInternalTemp 0x08#8 ∧
    decodeCmd8 .reservedHi 0b11110100#8 = .cmdReservedHi 0xF4#8 := by decide

/-- R39, R50, R66: what the decoder refuses, by name. -/
theorem test_decode_refusals :
    decode .hostAcc [0b00100010#8, 0#8, 0#8, 0#8, 0#8] = .error .misalignedOffset ∧
    decode .hostAcc [0b01000000#8] = .error .notSixBits ∧
    decode .hostAcc [0b00100000#8, 0#8, 0#8, 0#8] = .error .tooShort ∧
    decode .busReq [0b00101000#8] = .error .tooShort ∧
    decode .raw32 [0xC0#8, 0#8, 0#8] = .error .tooShort ∧ decode (.cmd8 .im) [] = .error .tooShort :=
  ⟨rfl, rfl, rfl, rfl, rfl, rfl⟩

/-- A bare table word, and the step that runs it first after reset. -/
theorem test_table_words :
    decodeTableWord 8 0x28 = some (.wrAddr 0#32) ∧ decodeTableWord 8 0x1C = some .rdTickcnt ∧
    decodeTableWord 8 0x2A = some (.busWriteCmd 0x15#7 0#8) ∧ decodeTableWord 8 0x29 = some (.busRead4 0x14#7) ∧
    decodeTableWord 32 0xC0123456 = some (.decPosovf 0x123456#24) ∧ decodeTableWord 16 0 = none := by decide

theorem test_table_word_runs :
    seen State.issued (State.reset.withFetchWord 8 0x29) = some [.read4 0x14#7] ∧
    seen State.issued (State.reset.withFetchWord 8 0x2A) = some [.write 0x15#7 0#8] ∧
    seen State.result (State.reset.withFetchWord 32 0x8001F400) = some 0x3E8#32 ∧
    seen State.hostReads (State.reset.withFetchWord 8 0x04) = some [⟨.status, 0#32⟩] := by decide

/-! ## Host writes -/

/-- T-H09 with R69's example: the request of a START from Idle. -/
theorem test_wrCtrl_starts :
    seen (fun t => (t.state, t.reqAddr, t.reqCmd, t.reqTimeout, t.outstanding))
      { State.reset with
        addr := 0x14#7, cmd := 0x04#8, timeout := 150#16, inputs := [.hostWr 0x00 4 0xFFFFFFFF#32] } =
    some (.commandSent, 0x14#7, 0x04#8, 150#16, some (.write 0x14#7 0x04#8)) := by decide

/-- T-P14: a START while BUSY. -/
theorem test_wrCtrl_while_busy :
    seen (fun t => (t.state, t.startErr, t.outstanding)) (block .commandSent false 0#17 [.hostWr 0x00 4 0x1#32]) =
    some (.commandSent, true, some (.write 0x14#7 0x04#8)) := by decide

/-- R70's example: START_ERR is still 1. -/
theorem test_wrStatus_keeps_startErr :
    seen State.startErr { State.reset with startErr := true, inputs := [.hostWr 0x04 4 0#32] } = some true := by decide

/-- T-H01. -/
theorem test_wrAddr_truncates : seen State.addr { State.reset with inputs := [.hostWr 0x08 4 0xFF#32] } =
    some 0x7F#7 := by decide

/-- T-H02. -/
theorem test_wrCmd_truncates : seen State.cmd { State.reset with inputs := [.hostWr 0x0C 4 0x1234#32] } =
    some 0x34#8 := by decide

/-- T-P16: a new CMD in a cycle does not reach REQ_CMD. -/
theorem test_wrCmd_in_cycle :
    seen (fun t => (t.cmd, t.reqCmd)) (block .awaitingConversion false 0#17 [.hostWr 0x0C 4 0x0D#32]) =
    some (0x0D#8, 0x04#8) := by decide

/-- T-H03. -/
theorem test_wrTimeout_truncates :
    seen State.timeout { State.reset with inputs := [.hostWr 0x10 4 0x12345#32] } = some 0x2345#16 := by decide

/-- T-H04. -/
theorem test_wrTimeout_drops_bit16 :
    seen State.timeout { State.reset with timeout := 7#16, inputs := [.hostWr 0x10 4 0x10000#32] } =
    some 0#16 := by decide

/-- T-H06. -/
theorem test_wrRaw_ignored :
    seen State.raw { State.reset with raw := 0x8001F400#32, inputs := [.hostWr 0x14 4 0xC0000000#32] } =
    some 0x8001F400#32 := by decide

/-- R75's example. -/
theorem test_wrResult_ignored :
    seen State.result { State.reset with result := 0x3E8#32, inputs := [.hostWr 0x18 4 0#32] } =
    some 0x3E8#32 := by decide

/-- T-H10. -/
theorem test_wrTickcnt_ignored :
    seen State.tickcnt (block .awaitingConversion false 5#17 [.hostWr 0x1C 4 0#32]) = some 5#17 := by decide

/-! ## Host reads -/

/-- T-H05, just after a START. -/
theorem test_rdCtrl_zero : answered (block .commandSent false 0#17 [.hostRd 0x00 4]) = some 0#32 := by decide

/-- T-H07: Done, OVF none, START_ERR = 1. -/
theorem test_rdStatus_startErr :
    answered { block .done false 0#17 [.hostRd 0x04 4] with startErr := true } = some 0x404#32 := by decide

/-- The STATUS table of 95_test_vectors.md section 2.6, whole. -/
theorem test_status_table :
    State.reset.statusWord = 0x000#32 ∧
    (block .commandSent false 0#17 []).statusWord = 0x801#32 ∧
    (block .awaitingConversion false 0#17 []).statusWord = 0x802#32 ∧
    (block .awaitingConversion true 1#17 []).statusWord = 0x80A#32 ∧
    (block .reading false 0#17 []).statusWord = 0x803#32 ∧
    (block .done false 0#17 []).statusWord = 0x004#32 ∧
    { block .done false 0#17 [] with ovf := .positive }.statusWord = 0x104#32 ∧
    { block .done false 0#17 [] with ovf := .negative }.statusWord = 0x204#32 ∧
    (block .timeout false 4#17 []).statusWord = 0x005#32 ∧
    { block .error false 0#17 [] with wstat := .payloadTooLong }.statusWord = 0x026#32 ∧
    { block .error false 0#17 [] with wstat := .addressNack }.statusWord = 0x046#32 ∧
    { block .error false 0#17 [] with wstat := .dataNack }.statusWord = 0x066#32 ∧
    { block .error false 0#17 [] with wstat := .otherFailure }.statusWord = 0x086#32 ∧
    { block .done false 0#17 [] with ovf := .positive, startErr := true }.statusWord = 0x504#32 := by decide

/-- R79: ADDR, not REQ_ADDR. -/
theorem test_rdAddr : answered { block .commandSent false 0#17 [.hostRd 0x08 4] with addr := 0x7F#7 } =
    some 0x7F#32 := by decide

/-- R80: CMD, not REQ_CMD. -/
theorem test_rdCmd : answered { block .commandSent false 0#17 [.hostRd 0x0C 4] with cmd := 0x34#8 } =
    some 0x34#32 := by decide

/-- R81: TIMEOUT, not REQ_TIMEOUT. -/
theorem test_rdTimeout : answered { block .commandSent false 0#17 [.hostRd 0x10 4] with timeout := 0x2345#16 } =
    some 0x2345#32 := by decide

/-- R82's example, with another word in SR. -/
theorem test_rdRaw :
    answered { block .reading false 0#17 [.hostRd 0x14 4] with raw := 0x8001F400#32, sr := 0xDEADBEEF#32 } =
    some 0x8001F400#32 := by decide

/-- R83's example. -/
theorem test_rdResult : answered { block .done false 0#17 [.hostRd 0x18 4] with result := 0x3E8#32 } =
    some 0x3E8#32 := by decide

/-- R84: bit 16 of the count is read. -/
theorem test_rdTickcnt : answered (block .timeout false 0x10000#17 [.hostRd 0x1C 4]) = some 0x10000#32 := by decide

/-- R39: refused accesses, by name. -/
theorem test_refused_accesses :
    step { State.reset with inputs := [.hostRd 0x04 1] } = .refused .accessWidth ∧
    step { State.reset with inputs := [.hostWr 0x20 4 1#32] } = .refused .outsideWindow ∧
    step { State.reset with inputs := [.hostWr 0x1E 4 1#32] } = .refused .misalignedOffset := by
  refine ⟨rfl, rfl, rfl⟩

/-! ## Bus transactions and their answers -/

/-- R85's example: START with ADDR = 0x14, CMD = 0x04 issues BRW 0x28 with payload 0x04. -/
theorem test_busWriteCmd :
    seen (fun t => t.issued.map fun r => (r.brw, r.payload)) (block .idle false 0#17 [startEvent]) =
    some [(0x28#8, [0x04#8])] := by decide

/-- R90's example: BRW 0x29. -/
theorem test_busRead4 :
    seen (fun t => t.issued.map BusRequest.brw) (block .commandSent false 0#17 [.busWriteResp .success]) =
    some [0x29#8] := by decide

/-- R88's example: STATUS reads 0x46, and no read is issued. -/
theorem test_write_failure :
    seen (fun t => (t.statusWord, t.issued, t.history))
      (block .commandSent false 0#17 [.busWriteResp .addressNack]) =
    some (0x46#32, [], [.write 0x14#7 0x04#8 .addressNack]) := by decide

/-- T-S01, T-S04. -/
theorem test_full_answer :
    seen State.sr (block .awaitingConversion false 0#17 [.busReadResp (.four 0x80#8 0x01#8 0xF4#8 0x00#8)]) =
      some 0x8001F400#32 ∧
    seen State.sr { block .awaitingConversion false 0#17 [.busReadResp (.four 0x00#8 0x00#8 0x00#8 0x00#8)] with
      sr := 0xDEADBEEF#32 } = some 0x00000000#32 := by decide

/-- T-S05. -/
theorem test_shiftIn1 : shiftIn1 0x11223344#32 0xAB#8 = 0x223344AB#32 := by decide

/-- T-S06, T-P07: a short read leaves SR and counts as a failure. -/
theorem test_short_answer :
    seen (fun t => (t.sr, t.tickcnt, t.statusWord))
      { block .awaitingConversion false 0#17 [.busReadResp (.three 0x12#8 0x34#8 0x56#8)] with sr := 0x8001F400#32 } =
    some (0x8001F400#32, 1#17, 0x80A#32) := by decide

/-- T-P04's last attempt: TICKCNT = 4 > 3. -/
theorem test_last_attempt :
    seen (fun t => (t.state, t.tickcnt)) (block .awaitingConversion false 3#17 [.busReadResp .noData]) =
    some (.timeout, 4#17) := by decide

/-- T-P13: a tick in Idle changes nothing. -/
theorem test_tick_in_idle : seen State.registers { State.reset with inputs := [.tick] } =
    some State.reset := by decide

/-- R95's example. -/
theorem test_tick_in_pollWait :
    seen (fun t => (t.pollWait, t.outstanding)) (block .awaitingConversion true 1#17 [.tick]) =
    some (false, some (.read4 0x14#7)) := by decide

/-- T-P17: RESET in the poll wait. -/
theorem test_reset_in_pollWait : seen State.registers (block .awaitingConversion true 1#17 [.reset]) =
    some State.reset := by decide

/-- T-P15: START from Timeout keeps RESULT. -/
theorem test_start_from_timeout :
    seen (fun t => (t.state, t.tickcnt, t.wstat, t.result))
      { block .timeout false 4#17 [startEvent] with result := 0x3E8#32 } =
    some (.commandSent, 0#17, .success, 0x3E8#32) := by decide

/-! ## Sample decoder -/

/-- What the DECODE step leaves in RESULT and OVF. -/
def sampleOf (sr : Word) : Option (Word × Ovf) := seen (fun t => (t.result, t.ovf)) (sampled sr)

/-- T-D13, T-D14. -/
theorem test_decPosovf : sampleOf 0xC0000000#32 = some (0x7FFFFFFF#32, .positive) ∧
    sampleOf 0xC0FFFFFF#32 = some (0x7FFFFFFF#32, .positive) := by decide

/-- T-D15, T-D16. -/
theorem test_decNegovf : sampleOf 0x3F000000#32 = some (0x80000000#32, .negative) ∧
    sampleOf 0x3FFFFFFF#32 = some (0x80000000#32, .negative) := by decide

/-- T-D17. -/
theorem test_decNormal_positive : sampleOf 0x8001F400#32 = some (0x3E8#32, .none) := by decide

/-- T-D18: a truncating division would give -999. -/
theorem test_decNormal_rounds_down : sampleOf 0x7FFE0C7F#32 = some (0xFFFFFC18#32, .none) := by decide

/-- T-D01 to T-D12 and T-D20 to T-D23. -/
theorem test_extractSample_vectors :
    [0x00000000#32, 0x80000000#32, 0x80000080#32, 0x00000080#32, 0xBFFFFF80#32, 0xBFFFFFFF#32, 0x40000000#32,
      0x7FFFFF80#32, 0x7FFFFFFF#32, 0xFFFFFFFF#32, 0xC1000000#32, 0x3E000000#32, 0x40000001#32, 0xFF000000#32,
      0x00FFFFFF#32, 0x80000100#32].map extractSample =
    [0x00000000#32, 0x00000000#32, 0x00000001#32, 0x00000001#32, 0x007FFFFF#32, 0x007FFFFF#32, 0xFF800000#32,
      0xFFFFFFFF#32, 0xFFFFFFFF#32, 0xFFFFFFFF#32, 0xFF820000#32, 0x007C0000#32, 0xFF800000#32, 0xFFFE0000#32,
      0x0001FFFF#32, 0x00000002#32] := by decide

/-- T-C01 to T-C10. -/
theorem test_comparator :
    [0xC0#8, 0x3F#8, 0xC1#8, 0xFF#8, 0xE0#8, 0x3E#8, 0x7F#8, 0xBF#8, 0x00#8, 0x40#8].map
      (fun m => (posFlag (m ++ 0x123456#24), negFlag (m ++ 0x123456#24))) =
    (true, false) :: (false, true) :: List.replicate 8 (false, false) := by decide

/-- T-E01 to T-E09, and the two words with sub-LSB bits after them. -/
theorem test_encSample :
    [0, 1, -1, 1000, -1000, 8388607, -8388608, 8257536, -8257537].map (encSample · 0#7) =
      [0x80000000#32, 0x80000080#32, 0x7FFFFF80#32, 0x8001F400#32, 0x7FFE0C00#32, 0xBFFFFF80#32, 0x40000000#32,
        0xBF000000#32, 0x40FFFF80#32] ∧
    encSample (-1000) 0x7F#7 = 0x7FFE0C7F#32 ∧ encSample (-8388608) 0x01#7 = 0x40000001#32 := by decide

/-- T-K01 to T-K08. -/
theorem test_commandFields :
    commandFields 0x00#8 = ⟨false, .hz50and60, false, 0#4⟩ ∧ commandFields 0x01#8 = ⟨true, .hz50and60, false, 0#4⟩ ∧
    commandFields 0x02#8 = ⟨false, .hz50, false, 0#4⟩ ∧ commandFields 0x04#8 = ⟨false, .hz60, false, 0#4⟩ ∧
    commandFields 0x06#8 = ⟨false, .reserved, false, 0#4⟩ ∧
    commandFields 0x08#8 = ⟨false, .hz50and60, true, 0#4⟩ ∧ commandFields 0x0D#8 = ⟨true, .hz60, true, 0#4⟩ ∧
    commandFields 0xF4#8 = ⟨false, .hz60, false, 0xF#4⟩ := by decide

/-! ## Witnesses: operands that meet every hypothesis of an obligation, clause by clause -/

theorem witness_HostAccessWordsSelectOperations :
    (0x01#6 : BitVec 6).extractLsb' 0 2 ≠ 0#2 ∧ (0x3F#6 : BitVec 6).extractLsb' 0 2 ≠ 0#2 := by decide

/-- The two MSB bytes next to the overflow patterns. -/
theorem witness_DecodeOfEncodeIsIdentity :
    wellFormed (.decNormal 1#1 0x820000#24 0x7F#7) = true ∧ wellFormed (.decNormal 0#1 0x7C0000#24 0#7) = true ∧
    wellFormed (.cmdFr60hz 0xF5#8) = true ∧ wellFormed .rdTickcnt = true := by decide

theorem witness_EncodeOfDecodeIsIdentity :
    decode .hostAcc [0x3C#8, 1#8, 2#8, 3#8, 4#8, 5#8] = .ok (.wrTickcnt 0x04030201#32, [5#8]) ∧
    decode (.cmd8 .im) [0xF8#8, 0#8] = .ok (.cmdImInternalTemp 0xF8#8, [0#8]) := ⟨rfl, rfl⟩

theorem witness_SampleWordSelectsCase :
    0xC0FFFFFF#32 &&& 0xFF000000#32 = 0xC0000000#32 ∧ 0x3F000000#32 &&& 0xFF000000#32 = 0x3F000000#32 ∧
    0xC1000000#32 &&& 0xFF000000#32 ≠ 0xC0000000#32 ∧ 0xC1000000#32 &&& 0xFF000000#32 ≠ 0x3F000000#32 := by decide

theorem witness_HostAccessStepRunsDecodedInstruction :
    (block .done false 0#17 [.hostWr 0 4 1#32]).inputs = .hostWr 0 4 1#32 :: [] ∧
    decode .hostAcc (haByte true (BitVec.ofNat 5 0) :: laneBytes 1#32) = .ok (.wrCtrl 1#32, []) ∧
    (block .done false 0#17 [.hostRd 28 4, .tick]).inputs = .hostRd 28 4 :: [.tick] ∧ 28 < 32 ∧
    decode .hostAcc [haByte false (BitVec.ofNat 5 28)] = .ok (.rdTickcnt, []) :=
  ⟨rfl, rfl, rfl, by decide, rfl⟩

theorem witness_DecodeStepRunsSampleCase :
    (sampled 0xC0FFFFFF#32).state = .reading ∧ (sampled 0xC0FFFFFF#32).inputs = .decode :: [] ∧
    decode .raw32 (wireBytes (sampled 0xC0FFFFFF#32).sr) = .ok (.decPosovf 0xFFFFFF#24, []) := ⟨rfl, rfl, rfl⟩

theorem witness_BusStepsRunTransactions :
    ((block .done false 0#17 [.hostWr 0 4 0xFFFFFFFF#32]).busy = false ∧ (0xFFFFFFFF#32).getLsbD 0 = true ∧
      (block .done false 0#17 [.hostWr 0 4 0xFFFFFFFF#32]).inputs = .hostWr 0 4 0xFFFFFFFF#32 :: []) ∧
    ((block .commandSent false 0#17 [.busWriteResp .success]).state = .commandSent ∧
      (block .commandSent false 0#17 [.busWriteResp .success]).inputs = .busWriteResp .success :: []) ∧
    ((block .awaitingConversion true 3#17 [.tick]).state = .awaitingConversion ∧
      (block .awaitingConversion true 3#17 [.tick]).pollWait = true ∧
      (block .awaitingConversion true 3#17 [.tick]).inputs = .tick :: []) := by decide

theorem witness_WrCtrlRequestsStart :
    ((0x1#32).getLsbD 0 = true ∧ (block .error false 0#17 []).state ≠ .commandSent ∧
      (block .error false 0#17 []).state ≠ .awaitingConversion ∧ (block .error false 0#17 []).state ≠ .reading) ∧
    (block .reading false 0#17 []).state = .reading ∧ (0xFFFFFFFE#32).getLsbD 0 = false := by decide

/-- One access for each way of being refused, and one that is refused in every way. -/
theorem witness_IllShapedHostAccessesAreRefused :
    (3 ≠ 4 ∧ (block .idle false 0#17 [.hostWr 0 3 0#32]).inputs = .hostWr 0 3 0#32 :: []) ∧
    (32 ≤ 32 ∧ (block .idle false 0#17 [.hostRd 32 4]).inputs = .hostRd 32 4 :: []) ∧
    (31 % 4 ≠ 0 ∧ (block .idle false 0#17 [.hostWr 31 4 0#32]).inputs = .hostWr 31 4 0#32 :: []) ∧
    (8 ≠ 4 ∧ 32 ≤ 33 ∧ 33 % 4 ≠ 0) := by decide

theorem witness_AlignedHostAccessesAlwaysComplete :
    28 < 32 ∧ 28 % 4 = 0 ∧ (block .reading false 0#17 [.hostWr 28 4 9#32]).inputs = .hostWr 28 4 9#32 :: [] ∧
    (block .reading false 0#17 [.hostRd 0 4, .decode]).inputs = .hostRd 0 4 :: [.decode] := by decide

theorem witness_OutstandingRequestIsDerived :
    (block .commandSent false 0#17 []).state = .commandSent ∧
    ((block .awaitingConversion false 0#17 []).state = .awaitingConversion ∧
      (block .awaitingConversion false 0#17 []).pollWait = false) ∧
    ((block .awaitingConversion true 1#17 []).state = .awaitingConversion ∧
      (block .awaitingConversion true 1#17 []).pollWait = true) ∧
    ((block .reading false 0#17 []).state ≠ .commandSent ∧
      (block .reading false 0#17 []).state ≠ .awaitingConversion) := by decide

theorem witness_WriteSuccessStartsPolling :
    (block .commandSent false 0#17 [.busWriteResp .success, .tick]).state = .commandSent ∧
    (block .commandSent false 0#17 [.busWriteResp .success, .tick]).inputs = .busWriteResp .success :: [.tick] := by
  decide

theorem witness_WriteFailureEndsInError :
    (block .commandSent false 0#17 [.busWriteResp .payloadTooLong]).state = .commandSent ∧
    BusStatus.payloadTooLong ≠ .success ∧ BusStatus.otherFailure ≠ .success ∧
    (block .commandSent false 0#17 [.busWriteResp .payloadTooLong]).inputs = .busWriteResp .payloadTooLong :: [] := by
  decide

/-- R92's example; the hypotheses of WirePositionIsByteIndexReversed are the same. -/
theorem witness_FullAnswerFillsShiftRegister :
    let s := block .awaitingConversion false 3#17 [.busReadResp (.four 0x80#8 0x01#8 0xF4#8 0x00#8)]
    s.state = .awaitingConversion ∧ s.pollWait = false ∧
      s.inputs = .busReadResp (.four 0x80#8 0x01#8 0xF4#8 0x00#8) :: [] := by decide

/-- The last count within the budget, and the first above it; no byte, and three. -/
theorem witness_ShortAnswerCountsAFailedAttempt :
    (let s := block .awaitingConversion false 2#17 [.busReadResp .noData];
      s.state = .awaitingConversion ∧ s.pollWait = false ∧ ReadAnswer.noData.bytes.length < 4 ∧
        s.inputs = .busReadResp .noData :: [] ∧ ¬ s.reqTimeout.toNat < (s.tickcnt + 1#17).toNat) ∧
    (let s := block .awaitingConversion false 3#17 [.busReadResp (.three 1#8 2#8 3#8)];
      s.state = .awaitingConversion ∧ s.pollWait = false ∧ (ReadAnswer.three 1#8 2#8 3#8).bytes.length < 4 ∧
        s.inputs = .busReadResp (.three 1#8 2#8 3#8) :: [] ∧
        s.reqTimeout.toNat < (s.tickcnt + 1#17).toNat) := by decide

theorem witness_TickEndsPollWaitOnly :
    ((block .awaitingConversion true 1#17 [.tick]).inputs = .tick :: [] ∧
      (block .awaitingConversion true 1#17 [.tick]).state = .awaitingConversion ∧
      (block .awaitingConversion true 1#17 [.tick]).pollWait = true) ∧
    ((block .awaitingConversion false 1#17 [.tick]).inputs = .tick :: [] ∧
      (block .awaitingConversion false 1#17 [.tick]).pollWait = false) ∧
    ((block .timeout false 4#17 [.tick]).inputs = .tick :: [] ∧
      (block .timeout false 4#17 [.tick]).state ≠ .awaitingConversion) := by decide

theorem witness_EventsNotEnabledAreDropped :
    ((block .idle false 0#17 [.busWriteResp .success]).state ≠ .commandSent ∧
      (block .idle false 0#17 [.busWriteResp .success]).inputs = .busWriteResp .success :: []) ∧
    ((block .awaitingConversion true 1#17 [.busReadResp .noData]).pollWait = true ∧
      (block .awaitingConversion true 1#17 [.busReadResp .noData]).inputs = .busReadResp .noData :: []) ∧
    ((block .done false 0#17 [.decode]).state ≠ .reading ∧
      (block .done false 0#17 [.decode]).inputs = .decode :: []) := by decide

theorem witness_ComparatorTestsWholeMsbByte :
    (0xC0FFFFFF#32).toNat / 2 ^ 24 = 0xC0 ∧ (0x3FFFFFFF#32).toNat / 2 ^ 24 = 0x3F ∧
    (0x3F000000#32).extractLsb' 24 8 = (0x3FFFFFFF#32).extractLsb' 24 8 := by
  decide

theorem witness_NormalResultRange : (-2 ^ 23 ≤ (-8388608 : Int) ∧ (-8388608 : Int) ≤ 2 ^ 23 - 1) ∧
    (-2 ^ 23 ≤ (8388607 : Int) ∧ (8388607 : Int) ≤ 2 ^ 23 - 1) := by decide

/-- Both ends of the range: the words of T-E07 with sub-LSB bits (T-D20), and of T-E06. -/
theorem witness_SampleRoundTrip :
    ((-2 ^ 23 ≤ (-8388608 : Int) ∧ (-8388608 : Int) ≤ 2 ^ 23 - 1) ∧ (sampled 0x40000001#32).state = .reading ∧
      (sampled 0x40000001#32).sr = encSample (-8388608) 1#7 ∧ (sampled 0x40000001#32).inputs = .decode :: []) ∧
    ((-2 ^ 23 ≤ (8388607 : Int) ∧ (8388607 : Int) ≤ 2 ^ 23 - 1) ∧ (sampled 0xBFFFFF80#32).state = .reading ∧
      (sampled 0xBFFFFF80#32).sr = encSample 8388607 0#7 ∧ (sampled 0xBFFFFF80#32).inputs = .decode :: []) := by
  decide

theorem witness_DecodeStepSetsResults :
    (sampled 0xC0000000#32).state = .reading ∧ (sampled 0xC0000000#32).inputs = .decode :: [] ∧
    (sampled 0xC0000000#32).sr.extractLsb' 24 8 = 0xC0#8 ∧ (sampled 0x3FFFFFFF#32).sr.extractLsb' 24 8 = 0x3F#8 ∧
    (sampled 0x40000000#32).sr.extractLsb' 24 8 ≠ 0xC0#8 ∧
    (sampled 0x40000000#32).sr.extractLsb' 24 8 ≠ 0x3F#8 := by decide

/-- Two states that differ in the command byte alone, for a step that goes on, one that stops and one refused. -/
theorem witness_CommandByteDoesNotSteerTheController :
    (let s := block .idle false 0#17 [startEvent];
      s ≠ { s with cmd := 0xF4#8 } ∧ s.hideCommand = { s with cmd := 0xF4#8 }.hideCommand ∧
        ∃ t, step s = .next t) ∧
    (let s := block .commandSent false 0#17 [];
      s ≠ { s with reqCmd := 0xF4#8 } ∧ s.hideCommand = { s with reqCmd := 0xF4#8 }.hideCommand ∧
        step s = .fault .awaitingBusAnswer) ∧
    (let s := block .idle false 0#17 [.hostRd 2 4];
      s.hideCommand = { s with cmd := 0xF4#8 }.hideCommand ∧ step s = .refused .misalignedOffset) :=
  ⟨⟨by decide, by decide, _, rfl⟩, ⟨by decide, by decide, rfl⟩, ⟨by decide, rfl⟩⟩

theorem witness_ResetSetsEveryElement :
    (block .awaitingConversion true 3#17 [.reset, .tick]).inputs = .reset :: [.tick] := by decide

theorem witness_StuckWithoutEnvironment :
    ∀ p, (block .commandSent p 0#17 []).inputs = [] ∧ (block .commandSent p 0#17 []).state = .commandSent ∧
      (block .awaitingConversion p 0#17 []).state = .awaitingConversion ∧
      (block .awaitingConversion p 0#17 []).pollWait = p ∧ (block .timeout p 4#17 []).state = .timeout ∧
      (block .reading p 0#17 []).state = .reading := by decide

/-- A step along each kind of transition. -/
theorem witness_SequencerMovesOnlyAlongTransitions :
    (∃ t, step (block .error false 0#17 [startEvent]) = .next t ∧ t.state ≠ .error) ∧
    (∃ t, step (block .commandSent false 0#17 [.busWriteResp .success]) = .next t ∧ t.state ≠ .commandSent) ∧
    (∃ t, step (block .commandSent false 0#17 [.busWriteResp .dataNack]) = .next t ∧ t.state ≠ .commandSent) ∧
    (∃ t, step (block .awaitingConversion false 3#17 [.busReadResp .noData]) = .next t ∧
      t.state ≠ .awaitingConversion) ∧
    (∃ t, step (block .reading false 0#17 []) = .next t ∧ t.state ≠ .reading) ∧
    (∃ t, step (block .done false 0#17 [.reset]) = .next t ∧ t.state ≠ .done) :=
  ⟨⟨_, rfl, by decide⟩, ⟨_, rfl, by decide⟩, ⟨_, rfl, by decide⟩, ⟨_, rfl, by decide⟩, ⟨_, rfl, by decide⟩,
    ⟨_, rfl, by decide⟩⟩

/-- Reading with another event than DECODE, and DECODE in another state. -/
theorem witness_OnlyDecodeOrResetWritesResults :
    (∃ t, step (block .reading false 0#17 [.hostRd 4 4]) = .next t) ∧
    ¬((block .reading false 0#17 [.hostRd 4 4]).state = .reading ∧
      ((block .reading false 0#17 [.hostRd 4 4]).inputs.head? = some .decode ∨
        (block .reading false 0#17 [.hostRd 4 4]).inputs = [])) ∧
    (block .reading false 0#17 [.hostRd 4 4]).inputs.head? ≠ some .reset ∧
    (∃ t, step (block .done false 0#17 [.decode]) = .next t) := ⟨⟨_, rfl⟩, by decide, by decide, _, rfl⟩

/-- A START accepted, one turned away, and the unprompted DECODE; the witness of TickcntCountsFailedAttempts and OneCommandWritePerStart for
these clauses too. -/
theorem witness_OnlyStartOrResetLoadsRequest :
    (∃ t, step (block .timeout false 4#17 [startEvent]) = .next t) ∧
    (block .timeout false 4#17 [startEvent]).inputs.head? = some startEvent ∧
    acceptsStart (block .timeout false 4#17 [startEvent]) startEvent = true ∧
    (∃ t, step (block .reading false 0#17 [startEvent]) = .next t) ∧
    acceptsStart (block .reading false 0#17 [startEvent]) startEvent = false ∧ startEvent ≠ .reset ∧
    (∃ t, step (block .reading false 0#17 []) = .next t) ∧ (block .reading false 0#17 []).inputs.head? = none :=
  ⟨⟨_, rfl⟩, by decide, by decide, ⟨_, rfl⟩, by decide, by decide, ⟨_, rfl⟩, rfl⟩

theorem witness_ShiftRegisterCommitsOnFourBytes :
    (∃ t, step (block .awaitingConversion false 3#17 [.busReadResp (.four 0#8 0#8 0#8 1#8)]) = .next t ∧
      t.sr ≠ (block .awaitingConversion false 3#17 [.busReadResp (.four 0#8 0#8 0#8 1#8)]).sr) ∧
    (∃ t, step { sampled 1#32 with inputs := [.reset] } = .next t ∧ t.sr ≠ 1#32) :=
  ⟨⟨_, rfl, by decide⟩, ⟨_, rfl, by decide⟩⟩

theorem witness_StartErrIsSticky :
    (∃ t, step { block .done false 0#17 [startEvent] with startErr := true } = .next t) ∧
    [startEvent].head? ≠ some .reset ∧ (block .reading false 0#17 [startEvent]).startErr = false ∧
    (∃ t, step (block .reading false 0#17 [startEvent]) = .next t ∧ t.startErr = true) :=
  ⟨⟨_, rfl⟩, by decide, rfl, _, rfl, rfl⟩

/-- A failed attempt, and two steps that count nothing: a tick, and a full answer. -/
theorem witness_TickcntCountsFailedAttempts :
    (∃ t, step (block .awaitingConversion false 3#17 [.busReadResp (.three 1#8 2#8 3#8)]) = .next t) ∧
    (∃ t, step (block .awaitingConversion true 3#17 [.tick]) = .next t) ∧
    (∃ t, step (block .awaitingConversion false 3#17 [.busReadResp (.four 1#8 2#8 3#8 4#8)]) = .next t) ∧
    (∃ t, step (block .timeout false 4#17 [.reset]) = .next t) ∧
    (ReadAnswer.three 1#8 2#8 3#8).bytes.length < 4 ∧ (ReadAnswer.four 1#8 2#8 3#8 4#8).bytes.length = 4 :=
  ⟨⟨_, rfl⟩, ⟨_, rfl⟩, ⟨_, rfl⟩, ⟨_, rfl⟩, by decide, by decide⟩

theorem witness_TerminalStatesAreStable :
    (∃ t, step (block .timeout false 4#17 [.tick]) = .next t) ∧ (block .timeout false 4#17 [.tick]).cycleEnd = true ∧
    (∃ t, step (block .error false 0#17 [.hostWr 8 4 0x7F#32]) = .next t) ∧
    (block .error false 0#17 [.hostWr 8 4 0x7F#32]).cycleEnd = true := ⟨⟨_, rfl⟩, rfl, ⟨_, rfl⟩, rfl⟩

theorem witness_PollWaitIsLeftByTickOrReset :
    let s := block .awaitingConversion true 1#17 [startEvent]
    s.state = .awaitingConversion ∧ s.pollWait = true ∧ (∃ t, step s = .next t) ∧
      s.inputs.head? ≠ some .tick ∧ s.inputs.head? ≠ some .reset ∧
      (block .awaitingConversion true 1#17 []).inputs = [] := ⟨rfl, rfl, ⟨_, rfl⟩, by decide, by decide, rfl⟩

theorem witness_HostCannotDisturbCycle :
    let s := block .awaitingConversion false 1#17 [.hostWr 0x10 4 0#32]
    (∃ t, step s = .next t) ∧ s.inputs.head? = some (.hostWr 0x10 4 0#32) ∧ s.busy = true :=
  ⟨⟨_, rfl⟩, rfl, rfl⟩

theorem witness_OneCommandWritePerStart :
    let s := block .idle false 0#17 [.hostWr 0 4 2#32]
    (∃ t, step s = .next t) ∧ s.inputs.head? = some (.hostWr 0 4 2#32) ∧ acceptsStart s (.hostWr 0 4 2#32) = false :=
  ⟨⟨_, rfl⟩, rfl, rfl⟩

theorem witness_ReadAttemptsFollowSuccessOrTick :
    (∃ t, step (block .commandSent false 0#17 [.busWriteResp .success]) = .next t ∧ t.readsIssued ≠ 0) ∧
    (∃ t, step (block .awaitingConversion true 1#17 [.tick]) = .next t ∧ t.readsIssued ≠ 0) :=
  ⟨⟨_, rfl, by decide⟩, ⟨_, rfl, by decide⟩⟩

theorem witness_StepConservesRequestBalance :
    (∃ t, step (block .idle false 0#17 [startEvent]) = .next t) ∧ [startEvent].head? ≠ some .reset :=
  ⟨⟨_, rfl⟩, by decide⟩

theorem witness_StepKeepsLastIssuedOutstanding :
    let s := { block .commandSent false 0#17 [.busWriteResp .success] with issued := [.write 0x14#7 0x04#8] }
    LastIssuedInv s ∧ ∃ t, step s = .next t := ⟨by decide, _, rfl⟩

/-- A state whose step brings TICKCNT to the edge of the invariant. -/
theorem witness_StepKeepsInvariants :
    let s := block .awaitingConversion false 3#17 [.busReadResp .noData]
    StateInv s ∧ ∃ t, step s = .next t ∧ t.state = .timeout := ⟨by decide, _, rfl, rfl⟩

theorem witness_ReachableStatesSatisfyInvariants : ∃ s, Reachable s ∧ s.state = .commandSent :=
  ⟨_, .step (.init [startEvent]) rfl, rfl⟩

/-- The last attempt that can still succeed (T-P05's count, with REQ_TIMEOUT = 1), with a discarded tick, a host
read and a START while BUSY among the cycle's steps. -/
theorem witness_AttemptLawSuccess :
    let events := [Event.hostRd 4 4, .busWriteResp .success, .tick, .busReadResp (.three 1#8 2#8 3#8), startEvent,
      .tick, .busReadResp (.four 0x80#8 0x01#8 0xF4#8 0x00#8), .decode]
    let s := { block .commandSent false 0#17 (events ++ [.tick]) with reqTimeout := 1#16 }
    s.state = .commandSent ∧ s.tickcnt = 0#17 ∧ (∀ a ∈ [ReadAnswer.three 1#8 2#8 3#8], a.bytes.length < 4) ∧
      [ReadAnswer.three 1#8 2#8 3#8].length ≤ s.reqTimeout.toNat ∧
      CycleAmong (successCycle [.three 1#8 2#8 3#8] 0x80#8 0x01#8 0xF4#8 0x00#8) events ∧
      s.inputs = events ++ [.tick] :=
  ⟨rfl, rfl, by decide, by decide,
    .hostAccess _ rfl (.cycleStep _ (.discardedTick (by decide) (.cycleStep _ (.hostAccess _ rfl
      (.cycleStep _ (.cycleStep _ (.cycleStep _ .finished))))))), rfl⟩

/-- T-P01: REQ_TIMEOUT = 0, with a discarded tick before the answer. -/
theorem witness_AttemptLawTimeout :
    let events := [Event.busWriteResp .success, .tick, .busReadResp .noData]
    let s := { block .commandSent false 0#17 (events ++ []) with reqTimeout := 0#16 }
    s.state = .commandSent ∧ s.tickcnt = 0#17 ∧ (∀ a ∈ ([] : List ReadAnswer), a.bytes.length < 4) ∧
      ReadAnswer.noData.bytes.length < 4 ∧ ([] : List ReadAnswer).length = s.reqTimeout.toNat ∧
      CycleAmong (timeoutCycle [] .noData) events ∧ s.inputs = events ++ [] :=
  ⟨rfl, rfl, by decide, by decide, rfl,
    .cycleStep _ (.discardedTick (by decide) (.cycleStep _ .finished)), rfl⟩

theorem witness_ClockOrderConsequences :
    (let s := block .awaitingConversion false 2#17 [];
      s.state = .awaitingConversion ∧ s.pollWait = false ∧ (ReadAnswer.three 1#8 2#8 3#8).bytes.length < 4 ∧
        (s.tickcnt + 1#17).toNat ≤ s.reqTimeout.toNat) ∧
    (block .commandSent false 0#17 []).state = .commandSent ∧ BusStatus.otherFailure ≠ .success ∧
    (let s := block .awaitingConversion false 3#17 [];
      s.state = .awaitingConversion ∧ s.pollWait = false ∧ ReadAnswer.noData.bytes.length < 4 ∧
        s.reqTimeout.toNat < (s.tickcnt + 1#17).toNat) ∧
    (block .reading false 0#17 []).state = .reading ∧ (0xFFFFFFFF#32).getLsbD 0 = true := by decide

/-- A line's access next, and the three terminal states with the STATUS words the two guards of R68 tell apart. -/
theorem witness_HostProgramLines :
    (block .idle false 0#17 [.hostWr 0x10 4 150#32]).inputs = (HostOp.wr .timeout 150#32).event :: [] ∧
    (block .done false 0#17 [.hostRd 0x18 4]).inputs = (HostOp.rd .result).event :: [] ∧
    { State.reset with hostReads := [⟨.status, 0x204#32⟩] }.lastStatus.extractLsb' 0 3 = 4#3 ∧
    { State.reset with hostReads := [⟨.status, 0x005#32⟩] }.lastStatus.extractLsb' 0 3 ≠ 4#3 ∧
    (block .done false 0#17 []).cycleEnd = true ∧ (block .timeout false 4#17 []).cycleEnd = true := by decide

theorem witness_ResetLeavesObservations :
    (block .commandSent false 0#17 [.reset, .tick]).inputs = .reset :: [.tick] := by decide

/-- P3's WAITEND loop, in Error: GETSAMPLE reads no RESULT after s = 0x46. -/
theorem test_getSample_after_error :
    hostTurn [.readResultIfDone] { block .error false 0#17 [] with hostReads := [⟨.status, 0x46#32⟩] } =
    .next ([], { block .error false 0#17 [] with hostReads := [⟨.status, 0x46#32⟩] }) := rfl

end Sys2Proof.Tests
end

section
/-! The outstanding bus request by STATE and POLLWAIT (R32): one equation per case of `State.outstanding`. -/

namespace Sys2Proof.Machine

theorem State.outstanding_of_commandSent {s : State} (h : s.state = .commandSent) :
    s.outstanding = some (.write s.reqAddr s.reqCmd) := by
  simp [State.outstanding, h]

theorem State.outstanding_of_readPending {s : State} (h : s.readPending = true) :
    s.outstanding = some (.read4 s.reqAddr) := by
  obtain ⟨hstate, hwait⟩ := s.readPending_iff.1 h
  simp [State.outstanding, hstate, hwait]

theorem State.outstanding_of_inPollWait {s : State} (h : s.inPollWait = true) : s.outstanding = none := by
  obtain ⟨hstate, hwait⟩ := s.inPollWait_iff.1 h
  simp [State.outstanding, hstate, hwait]

theorem State.outstanding_of_not_onBus {s : State} (hcmd : s.state ≠ .commandSent)
    (hconv : s.state ≠ .awaitingConversion) : s.outstanding = none := by
  cases hstate : s.state with
  | commandSent => exact absurd hstate hcmd
  | awaitingConversion => exact absurd hstate hconv
  | idle | reading | done | timeout | error => simp [State.outstanding, hstate]

/-- Settles O19: each clause is the equation of `State.outstanding` for its case. -/
theorem outstandingRequestIsDerived : Obligations.OutstandingRequestIsDerived := fun s =>
  ⟨State.outstanding_of_commandSent,
    fun hstate hwait => State.outstanding_of_readPending (s.readPending_iff.2 ⟨hstate, hwait⟩),
    fun hstate hwait => State.outstanding_of_inPollWait (s.inPollWait_iff.2 ⟨hstate, hwait⟩),
    State.outstanding_of_not_onBus⟩

end Sys2Proof.Machine
end

section
/-! The host access word (R50): what the word of each direction and register selects, and that no other word selects
an operation. -/

namespace Sys2Proof.Machine

theorem decodeHostAcc_haWord (write : Bool) (r : HostReg) (data : Word) :
    decodeHostAcc (haWord write r.offset) data = some (if write then writeInstr r data else readInstr r) := by
  simp only [decodeHostAcc, haWord_off, haWord_dir, HostReg.ofOffset_offset]
  cases write <;> rfl

theorem HostReg.offset_aligned (r : HostReg) : r.offset.extractLsb' 0 2 = 0#2 := by
  cases r <;> rfl

theorem HostReg.ofOffset_misaligned {off : BitVec 5} (h : off.extractLsb' 0 2 ≠ 0#2) :
    HostReg.ofOffset off = none := by
  cases hr : HostReg.ofOffset off with
  | none => rfl
  | some r => exact absurd (HostReg.offset_of_ofOffset hr ▸ HostReg.offset_aligned r) h

theorem decodeHostAcc_misaligned {ha : BitVec 6} (h : ha.extractLsb' 0 2 ≠ 0#2) (data : Word) :
    decodeHostAcc ha data = none := by
  have hoff : (ha.extractLsb' 0 5).extractLsb' 0 2 ≠ 0#2 := by
    rwa [BitVec.extractLsb'_extractLsb'_of_le (by decide)]
  simp only [decodeHostAcc, HostReg.ofOffset_misaligned hoff]

/-- Settles O1: each of the 16 words is the word of its direction and register, and a misaligned word is none of
them. -/
theorem hostAccessWordsSelectOperations : Obligations.HostAccessWordsSelectOperations := fun data =>
  have row (write : Bool) (r : HostReg) := decodeHostAcc_haWord write r data
  ⟨row true .ctrl, row true .status, row true .addr, row true .cmd, row true .timeout, row true .raw,
    row true .result, row true .tickcnt, row false .ctrl, row false .status, row false .addr, row false .cmd,
    row false .timeout, row false .raw, row false .result, row false .tickcnt,
    fun _ h => decodeHostAcc_misaligned h data⟩

end Sys2Proof.Machine
end

section
/-! The codes of STATE, OVF and the bus status (R58 to R60): the codes never produced, and the CYCLE_END column. -/

namespace Sys2Proof.Machine

theorem seqCode_ne_seven (q : SeqState) : seqCode q ≠ 7#3 := by
  cases q <;> decide

theorem ovfCode_ne_three (f : Ovf) : ovfCode f ≠ 0b11#2 := by
  cases f <;> decide

theorem statusCode_le_four (c : BusStatus) : (statusCode c).toNat ≤ 4 := by
  cases c <;> decide

theorem State.cycleEnd_iff (s : State) :
    s.cycleEnd = true ↔ s.state = .done ∨ s.state = .timeout ∨ s.state = .error := by
  cases h : s.state <;> simp [State.cycleEnd, SeqState.isTerminal, h]

/-- Settles O7: the rows of the three code tables hold by computation; the codes never produced and the flag columns
are the lemmas about each. -/
theorem codesOfStatusFields : Obligations.CodesOfStatusFields :=
  ⟨⟨rfl, rfl, rfl, rfl, rfl, rfl, rfl, seqCode_ne_seven⟩, ⟨rfl, rfl, rfl, ovfCode_ne_three⟩,
    ⟨rfl, rfl, rfl, rfl, rfl, statusCode_le_four⟩, fun s => ⟨s.busy_iff, s.cycleEnd_iff⟩⟩

end Sys2Proof.Machine
end

section
/-! The fields of the STATUS word (R52), each read off the word as one concatenation. -/

namespace Sys2Proof.Machine

theorem statusWord_eq_append (s : State) :
    s.statusWord = 0#20 ++ (BitVec.ofBool s.busy ++ BitVec.ofBool s.startErr ++ ovfCode s.ovf ++
      statusCode s.wstat ++ 0b0#1 ++ BitVec.ofBool s.pollWait ++ seqCode s.state) :=
  BitVec.setWidth_eq_append (by decide)

@[simp] theorem statusWord_wstat (s : State) : s.statusWord.extractLsb' 5 3 = statusCode s.wstat := by
  simp (disch := decide) only [statusWord_eq_append, BitVec.extractLsb'_append_eq_of_le,
    BitVec.extractLsb'_append_eq_of_add_le, Nat.reduceSub, BitVec.extractLsb'_eq_self]

@[simp] theorem statusWord_ovf (s : State) : s.statusWord.extractLsb' 8 2 = ovfCode s.ovf := by
  simp (disch := decide) only [statusWord_eq_append, BitVec.extractLsb'_append_eq_of_le,
    BitVec.extractLsb'_append_eq_of_add_le, Nat.reduceSub, BitVec.extractLsb'_eq_self]

@[simp] theorem statusWord_reservedHi (s : State) : s.statusWord.extractLsb' 12 20 = 0#20 := by
  rw [statusWord_eq_append]
  exact BitVec.extractLsb'_append_eq_left

/-- The one-bit fields: POLLWAIT, the reserved bit 4, START_ERR and BUSY. -/
theorem statusWord_bits (s : State) :
    s.statusWord.getLsbD 3 = s.pollWait ∧ s.statusWord.getLsbD 4 = false ∧
    s.statusWord.getLsbD 10 = s.startErr ∧ s.statusWord.getLsbD 11 = s.busy := by
  simp only [statusWord_eq_append, BitVec.getLsbD_append, BitVec.getLsbD_ofBool]
  simp

/-- Settles O15: the word returned is `State.statusWord`, and each of its fields is the lemma of that field. -/
theorem rdStatusReturnsFields : Obligations.RdStatusReturnsFields := fun s =>
  have ⟨hpollWait, hbit4, hstartErr, hbusy⟩ := statusWord_bits s
  ⟨s.statusWord, exec_readInstr .status s, statusWord_state s, hpollWait, hbit4, statusWord_wstat s,
    statusWord_ovf s, hstartErr, hbusy, statusWord_reservedHi s⟩

end Sys2Proof.Machine
end

section
/-! The host reads and writes (R69 to R84): WR_CTRL by its bit 0 and BUSY, the low bits a write stores as residues, and
the zero-extended registers. -/

namespace Sys2Proof.Machine

theorem State.busy_eq_false_iff (s : State) :
    s.busy = false ↔ s.state ≠ .commandSent ∧ s.state ≠ .awaitingConversion ∧ s.state ≠ .reading := by
  rw [← Bool.not_eq_true, s.busy_iff, not_or, not_or]

theorem exec_wrCtrl (data : Word) (s : State) :
    exec (.wrCtrl data) s = .next (if data.getLsbD 0 then s.requestStart else s) :=
  exec_writeInstr .ctrl data s

/-- Settles O11: bit 0 decides whether START is requested, and BUSY, which holds in exactly the three states, whether
it is accepted. -/
theorem wrCtrlRequestsStart : Obligations.WrCtrlRequestsStart := by
  intro data s
  rw [exec_wrCtrl]
  refine ⟨fun hstart hcmd hconv hread => ?accepted, fun hstart hbusy => ?turnedAway, fun hnone => ?noStart⟩
  case accepted =>
    rw [if_pos hstart, State.requestStart_notBusy (s.busy_eq_false_iff.2 ⟨hcmd, hconv, hread⟩)]
    rfl
  case turnedAway => rw [if_pos hstart, State.requestStart_busy (s.busy_iff.2 hbusy)]
  case noStart => rw [if_neg (Bool.eq_false_iff.1 hnone)]

/-- Settles O12: the rows of `exec_writeInstr` for the four read-only registers. -/
theorem writesToReadOnlyRegistersChangeNothing : Obligations.WritesToReadOnlyRegistersChangeNothing :=
  fun data s =>
    ⟨exec_writeInstr .status data s, exec_writeInstr .raw data s, exec_writeInstr .result data s,
      exec_writeInstr .tickcnt data s⟩

/-- Settles O13: the rows of `exec_writeInstr` for the three request registers; a residue is the low bits. -/
theorem writesSetRequestRegisters : Obligations.WritesSetRequestRegisters := by
  intro data s
  simp (disch := decide) only [BitVec.ofNat_toNat, BitVec.setWidth_eq_extractLsb']
  exact ⟨exec_writeInstr .addr data s, exec_writeInstr .cmd data s, exec_writeInstr .timeout data s⟩

/-- Settles O14: each read returns `State.hostValue` of its register, a shorter register zero-extended. -/
theorem readsReturnRegisters : Obligations.ReadsReturnRegisters := by
  intro s
  simp only [BitVec.ofNat_toNat]
  exact ⟨exec_readInstr .ctrl s, exec_readInstr .addr s, exec_readInstr .cmd s, exec_readInstr .timeout s,
    exec_readInstr .raw s, exec_readInstr .result s, exec_readInstr .tickcnt s⟩

end Sys2Proof.Machine
end

section
/-! The answer to a command write in CommandSent (R87, R88): the next state for the code 0 and for every other code. -/

namespace Sys2Proof.Machine

theorem step_busWriteResp {s : State} {code : BusStatus} {rest : List Event}
    (head : s.inputs = .busWriteResp code :: rest) :
    step s = .next (takeWriteAnswer code { s with inputs := rest }) :=
  step_event head

theorem takeWriteAnswer_success {s : State} (sent : s.state = .commandSent) :
    takeWriteAnswer .success s =
      { s with
        wstat := .success, state := .awaitingConversion, pollWait := false,
        history := s.history ++ [.write s.reqAddr s.reqCmd .success],
        issued := s.issued ++ [.read4 s.reqAddr] } := by
  obtain ⟨notSent, -⟩ | ⟨-, -, next⟩ | ⟨-, failed, -⟩ := takeWriteAnswer_cases .success s
  · exact absurd sent notSent
  · exact next
  · exact absurd rfl failed

theorem takeWriteAnswer_failure {s : State} {code : BusStatus} (sent : s.state = .commandSent)
    (failed : code ≠ .success) :
    takeWriteAnswer code s =
      { s with
        wstat := code, state := .error, history := s.history ++ [.write s.reqAddr s.reqCmd code] } := by
  obtain ⟨notSent, -⟩ | ⟨-, success, -⟩ | ⟨-, -, next⟩ := takeWriteAnswer_cases code s
  · exact absurd sent notSent
  · exact absurd success failed
  · exact next

/-- Settles O20: the step takes the answer (`step_busWriteResp`), and the code 0 both enters AwaitingConversion and
issues the read attempt (`takeWriteAnswer_success`). -/
theorem writeSuccessStartsPolling : Obligations.WriteSuccessStartsPolling := by
  intro s rest sent head
  rw [step_busWriteResp head, takeWriteAnswer_success (s := { s with inputs := rest }) sent]

/-- Settles O21: the step takes the answer, and every other code enters Error (`takeWriteAnswer_failure`), whose next
state leaves the list of issued requests alone. -/
theorem writeFailureEndsInError : Obligations.WriteFailureEndsInError := by
  intro s rest code sent failed head
  rw [step_busWriteResp head, takeWriteAnswer_failure (s := { s with inputs := rest }) sent failed]

end Sys2Proof.Machine
end

section
/-! The receiver's polling (R92 to R95): the answer to a read attempt by the number of its bytes, the TICK, and the poll
wait, which only TICK and RESET end. -/

namespace Sys2Proof.Machine

theorem step_busReadResp {s : State} {answer : ReadAnswer} {rest : List Event}
    (head : s.inputs = .busReadResp answer :: rest) :
    step s = .next (takeReadAnswer answer { s with inputs := rest }) :=
  step_event head

theorem takeReadAnswer_full {s : State} (pending : s.readPending = true) (b0 b1 b2 b3 : Byte) :
    takeReadAnswer (.four b0 b1 b2 b3) s =
      { s with
        sr := b0 ++ b1 ++ b2 ++ b3, state := .reading,
        history := s.history ++ [.read s.reqAddr [b0, b1, b2, b3]] } := by
  obtain ⟨notPending, -⟩ | ⟨-, _, _, _, _, ⟨rfl, rfl, rfl, rfl⟩, next⟩ | ⟨-, short, -⟩ | ⟨-, short, -⟩ :=
    takeReadAnswer_cases (.four b0 b1 b2 b3) s
  · exact absurd pending (Bool.eq_false_iff.1 notPending)
  · rwa [shiftIn4_eq] at next
  · exact absurd short (Nat.lt_irrefl 4)
  · exact absurd short (Nat.lt_irrefl 4)

theorem takeReadAnswer_short {s : State} {answer : ReadAnswer} (pending : s.readPending = true)
    (short : answer.bytes.length < 4) :
    takeReadAnswer answer s =
      if s.reqTimeout.toNat < (s.tickcnt + 1#17).toNat then
        { s with
          tickcnt := s.tickcnt + 1#17, state := .timeout,
          history := s.history ++ [.read s.reqAddr answer.bytes] }
      else
        { s with
          tickcnt := s.tickcnt + 1#17, pollWait := true,
          history := s.history ++ [.read s.reqAddr answer.bytes] } := by
  obtain ⟨notPending, -⟩ | ⟨-, _, _, _, _, rfl, -⟩ | ⟨-, -, exceeded, next⟩ | ⟨-, -, within, next⟩ :=
    takeReadAnswer_cases answer s
  · exact absurd pending (Bool.eq_false_iff.1 notPending)
  · exact absurd short (Nat.lt_irrefl 4)
  · rw [next, if_pos exceeded]
  · rw [next, if_neg (Nat.not_lt.2 within)]

/-- Settles O22: the answer of four bytes is taken while the read attempt is pending (`takeReadAnswer_full`), and the
four shifts leave only the new bytes in SR. -/
theorem fullAnswerFillsShiftRegister : Obligations.FullAnswerFillsShiftRegister := by
  intro s rest b0 b1 b2 b3 waiting noPollWait head
  have pending := s.readPending_iff.2 ⟨waiting, noPollWait⟩
  rw [step_busReadResp head, takeReadAnswer_full (s := { s with inputs := rest }) pending]

/-- Settles O23: a short answer counts, and the new count decides (`takeReadAnswer_short`). -/
theorem shortAnswerCountsAFailedAttempt : Obligations.ShortAnswerCountsAFailedAttempt := by
  intro s rest answer waiting noPollWait short head
  have pending := s.readPending_iff.2 ⟨waiting, noPollWait⟩
  rw [step_busReadResp head, takeReadAnswer_short (s := { s with inputs := rest }) pending short]

theorem step_tick {s : State} {rest : List Event} (head : s.inputs = .tick :: rest) :
    step s = .next (takeTick { s with inputs := rest }) :=
  step_event head

theorem State.inPollWait_eq_false_iff (s : State) :
    s.inPollWait = false ↔ s.state ≠ .awaitingConversion ∨ s.pollWait = false := by
  rw [← Bool.not_eq_true, s.inPollWait_iff, not_and_or, Bool.not_eq_true]

theorem takeTick_inPollWait {s : State} (polling : s.inPollWait = true) :
    takeTick s = { s with pollWait := false, issued := s.issued ++ [.read4 s.reqAddr] } := by
  obtain ⟨notPolling, -⟩ | ⟨-, next⟩ := takeTick_cases s
  · exact absurd polling (Bool.eq_false_iff.1 notPolling)
  · exact next

theorem takeTick_notInPollWait {s : State} (notPolling : s.inPollWait = false) : takeTick s = s := by
  obtain ⟨-, next⟩ | ⟨polling, -⟩ := takeTick_cases s
  · exact next
  · exact absurd polling (Bool.eq_false_iff.1 notPolling)

/-- Settles O24: the two clauses are the two equations of `takeTick`, in the poll wait and outside it. -/
theorem tickEndsPollWaitOnly : Obligations.TickEndsPollWaitOnly := by
  intro s rest head
  rw [step_tick head]
  refine ⟨fun waiting pollWait => ?taken, fun outside => ?discarded⟩
  case taken => rw [takeTick_inPollWait (s := { s with inputs := rest }) (s.inPollWait_iff.2 ⟨waiting, pollWait⟩)]
  case discarded => rw [takeTick_notInPollWait (s := { s with inputs := rest }) (s.inPollWait_eq_false_iff.2 outside)]

theorem step_noEvent_notReading {s : State} (noEvent : s.inputs = []) (notReading : s.state ≠ .reading) :
    step s = .fault s.waitsFor := by
  rw [step_noEvent noEvent, controllerTurn, if_neg notReading]

/-- Every effect of a step either keeps the elements of the poll wait, or belongs to TICK or RESET, or needs another
state: Idle or a terminal state for START, CommandSent or a pending read attempt for an answer, Reading for DECODE. -/
theorem step_keeps_inPollWait {s t : State} (h : step s = .next t) (polling : s.inPollWait = true)
    (noTick : s.inputs.head? ≠ some .tick) (noReset : s.inputs.head? ≠ some .reset) : t.inPollWait = true := by
  obtain ⟨waiting, pollWait⟩ := s.inPollWait_iff.1 polling
  cases step_effect h with
  | hostNothing _ _ _ _ _ _ next | startRejected _ _ _ _ _ next | addrWritten _ _ _ _ next | cmdWritten _ _ _ _ next
  | timeoutWritten _ _ _ _ next | wordReturned _ _ _ _ _ next | writeAnswerDropped _ _ _ _ next
  | readAnswerDropped _ _ _ _ next | decodeDropped _ _ _ next => subst next; exact polling
  | startAccepted _ _ _ _ free => exact absurd waiting (s.busy_eq_false_iff.1 free).2.1
  | writeSucceeded _ _ other | writeFailed _ _ _ other | decoded _ _ _ _ other | decodedUnprompted _ _ _ other =>
    exact absurd (waiting.symm.trans other) (by decide)
  | readSucceeded _ _ _ _ _ _ _ pending | readTimedOut _ _ _ _ pending | readToRetry _ _ _ _ pending =>
    exact absurd (pollWait.symm.trans pending) (by decide)
  | tickDropped _ head | tickTaken _ head => exact absurd (congrArg List.head? head) noTick
  | wasReset _ head => exact absurd (congrArg List.head? head) noReset

/-- Settles O46: nothing is outstanding in the poll wait, a turn without an event is a fault there, and every step but
TICK and RESET keeps the poll wait (`step_keeps_inPollWait`). -/
theorem pollWaitIsLeftByTickOrReset : Obligations.PollWaitIsLeftByTickOrReset := by
  intro s waiting pollWait
  have polling := s.inPollWait_iff.2 ⟨waiting, pollWait⟩
  refine ⟨State.outstanding_of_inPollWait polling, fun noEvent t => ?stuck, fun t h noTick noReset => ?kept⟩
  case stuck =>
    have notReading : s.state ≠ .reading := by rw [waiting]; decide
    rw [step_noEvent_notReading noEvent notReading]
    exact nofun
  case kept => exact t.inPollWait_iff.1 (step_keeps_inPollWait h polling noTick noReset)

end Sys2Proof.Machine
end

section
/-! The shift register (R98, R99, R101): the value of a register with bytes shifted in, and the one event besides RESET
that writes it. -/

namespace Sys2Proof.Machine

theorem toNat_append_eq_mul_add {n m : Nat} (hi : BitVec n) (lo : BitVec m) :
    (hi ++ lo).toNat = hi.toNat * 2 ^ m + lo.toNat := by
  rw [BitVec.toNat_append, ← Nat.shiftLeft_add_eq_or_of_lt lo.isLt, Nat.shiftLeft_eq]

theorem shiftIn1_toNat (sr : Word) (b : Byte) : (shiftIn1 sr b).toNat = sr.toNat % 2 ^ 24 * 256 + b.toNat := by
  simp only [shiftIn1_eq, toNat_append_eq_mul_add, BitVec.extractLsb'_toNat, Nat.shiftRight_zero, Nat.reducePow]

theorem shiftIn4_toNat (sr : Word) (b0 b1 b2 b3 : Byte) :
    (shiftIn4 sr b0 b1 b2 b3).toNat =
      b0.toNat * 2 ^ 24 + b1.toNat * 2 ^ 16 + b2.toNat * 2 ^ 8 + b3.toNat := by
  simp only [shiftIn4_eq, toNat_append_eq_mul_add]
  omega

/-- Settles O26: ShiftIn4 is the four shifts by definition, and the values are those of the concatenations
`shiftIn1_eq` and `shiftIn4_eq`. -/
theorem shiftRegisterTakesBytes : Obligations.ShiftRegisterTakesBytes :=
  ⟨shiftIn1_toNat, fun sr b0 b1 b2 b3 => ⟨rfl, shiftIn4_toNat sr b0 b1 b2 b3⟩⟩

/-- Of the effects of a step, only RESET and the full answer to a pending read attempt write SR. -/
theorem step_keeps_sr_or_writes {s t : State} (h : step s = .next t) :
    t.sr = s.sr ∨ s.inputs.head? = some .reset ∨
    ∃ b0 b1 b2 b3, s.inputs.head? = some (.busReadResp (.four b0 b1 b2 b3)) ∧ s.state = .awaitingConversion ∧
      s.pollWait = false ∧ t.sr = b0 ++ b1 ++ b2 ++ b3 := by
  cases step_effect h with
  | wasReset _ head => exact .inr (.inl (congrArg List.head? head))
  | readSucceeded b0 b1 b2 b3 _ head waiting pending next =>
    exact .inr (.inr ⟨b0, b1, b2, b3, congrArg List.head? head, waiting, pending, congrArg State.sr next⟩)
  | hostNothing _ _ _ _ _ _ next | startAccepted _ _ _ _ _ next | startRejected _ _ _ _ _ next
  | addrWritten _ _ _ _ next | cmdWritten _ _ _ _ next | timeoutWritten _ _ _ _ next | wordReturned _ _ _ _ _ next
  | writeAnswerDropped _ _ _ _ next | writeSucceeded _ _ _ next | writeFailed _ _ _ _ _ next
  | readAnswerDropped _ _ _ _ next | readTimedOut _ _ _ _ _ _ _ next | readToRetry _ _ _ _ _ _ _ next
  | tickDropped _ _ _ next | tickTaken _ _ _ _ next | decodeDropped _ _ _ next | decoded _ _ _ _ _ _ next
  | decodedUnprompted _ _ _ _ _ next => subst next; exact .inl rfl

/-- Settles O42: a step that changes SR is one of the two writers of `step_keeps_sr_or_writes`. -/
theorem shiftRegisterCommitsOnFourBytes : Obligations.ShiftRegisterCommitsOnFourBytes :=
  fun _ _ h changed => (step_keeps_sr_or_writes h).resolve_left changed

end Sys2Proof.Machine
end

section
/-! The sample decoder (R103 to R106, R108): the comparator by the value of the MSB byte, the extractor as a floor
division, the three decode cases, and the DECODE step in each. -/

namespace Sys2Proof.Machine

/-! ## The comparator -/

theorem posFlag_iff (w : Word) : posFlag w = true ↔ w.extractLsb' 24 8 = 0xC0#8 := beq_iff_eq

theorem negFlag_iff (w : Word) : negFlag w = true ↔ w.extractLsb' 24 8 = 0x3F#8 := beq_iff_eq

theorem not_posFlag_and_negFlag (w : Word) : ¬(posFlag w = true ∧ negFlag w = true) := by
  rw [posFlag_iff, negFlag_iff]
  rintro ⟨pos, neg⟩
  exact absurd (pos.symm.trans neg) (by decide)

theorem msbByte_toNat (w : Word) : (msbByte w).toNat = w.toNat / 2 ^ 24 := by
  rw [msbByte, BitVec.extractLsb'_toNat, Nat.shiftRight_eq_div_pow, Nat.mod_eq_of_lt]
  exact Nat.div_lt_of_lt_mul w.isLt

theorem msbByte_eq_iff (w : Word) (b : Byte) : msbByte w = b ↔ w.toNat / 2 ^ 24 = b.toNat := by
  rw [← BitVec.toNat_inj, msbByte_toNat]

/-- Settles O28: each flag is an equation of the MSB byte (`posFlag_iff`, `negFlag_iff`), which is the word's value
divided by 2^24. -/
theorem comparatorTestsWholeMsbByte : Obligations.ComparatorTestsWholeMsbByte := fun w =>
  ⟨(posFlag_iff w).trans (msbByte_eq_iff w 0xC0#8), (negFlag_iff w).trans (msbByte_eq_iff w 0x3F#8),
    not_posFlag_and_negFlag w,
    fun _ same => ⟨congrArg (· == 0xC0#8) same, congrArg (· == 0x3F#8) same⟩⟩

/-! ## The decode cases -/

theorem exec_decPosovf (low : BitVec 24) (s : State) :
    exec (.decPosovf low) s = .next { s with result := Config.posSat, ovf := .positive } := rfl

theorem exec_decNegovf (low : BitVec 24) (s : State) :
    exec (.decNegovf low) s = .next { s with result := Config.negSat, ovf := .negative } := rfl

theorem exec_decNormal (marker : BitVec 1) (data : BitVec 24) (sub : BitVec 7) (s : State) :
    exec (.decNormal marker data sub) s = .next { s with result := extractSample s.sr, ovf := .none } := rfl

/-- Settles O29: the two overflow cases, with the values of POS_SAT and NEG_SAT (R8). -/
theorem overflowCasesReturnSentinels : Obligations.OverflowCasesReturnSentinels := fun low s =>
  ⟨exec_decPosovf low s, exec_decNegovf low s⟩

theorem asr32_eq_fdiv (v : Word) (n : Nat) : asr32 v n = BitVec.ofInt 32 (Int.fdiv v.toInt (2 ^ n)) := by
  have floor : (asr32 v n).toInt = Int.fdiv v.toInt (2 ^ n) := by
    rw [asr32, BitVec.toInt_sshiftRight, Int.shiftRight_eq_div_pow, Int.fdiv_eq_ediv_of_nonneg _ (by positivity)]
    norm_cast
  rw [← floor, BitVec.ofInt_toInt]

/-- Settles O30: the extractor's last step, the arithmetic shift by 8, is the floor of the division by 256
(`asr32_eq_fdiv`). -/
theorem normalCaseExtractsSample : Obligations.NormalCaseExtractsSample := by
  intro m d sub s
  rw [exec_decNormal, extractSample, asr32_eq_fdiv]
  rfl

/-! ## The DECODE step -/

theorem runDecode_posFlag {s : State} (reading : s.state = .reading) (pos : posFlag s.sr = true) :
    runDecode s =
      .next { s with raw := s.sr, result := Config.posSat, ovf := .positive, state := .done } := by
  obtain ⟨_, _, next, ⟨-, rfl, rfl⟩ | ⟨neg, -⟩ | ⟨notPos, -⟩⟩ := runDecode_reading reading
  · exact next
  · exact absurd ⟨pos, neg⟩ (not_posFlag_and_negFlag s.sr)
  · exact absurd pos (Bool.eq_false_iff.1 notPos)

theorem runDecode_negFlag {s : State} (reading : s.state = .reading) (neg : negFlag s.sr = true) :
    runDecode s =
      .next { s with raw := s.sr, result := Config.negSat, ovf := .negative, state := .done } := by
  obtain ⟨_, _, next, ⟨pos, -⟩ | ⟨-, rfl, rfl⟩ | ⟨-, notNeg, -⟩⟩ := runDecode_reading reading
  · exact absurd ⟨pos, neg⟩ (not_posFlag_and_negFlag s.sr)
  · exact next
  · exact absurd neg (Bool.eq_false_iff.1 notNeg)

theorem runDecode_noFlag {s : State} (reading : s.state = .reading) (notPos : ¬posFlag s.sr = true)
    (notNeg : ¬negFlag s.sr = true) :
    runDecode s =
      .next { s with raw := s.sr, result := extractSample s.sr, ovf := .none, state := .done } := by
  obtain ⟨_, _, next, ⟨pos, -⟩ | ⟨neg, -⟩ | ⟨-, -, rfl, rfl⟩⟩ := runDecode_reading reading
  · exact absurd pos notPos
  · exact absurd neg notNeg
  · exact next

theorem step_decode {s : State} {rest : List Event} (head : s.inputs = .decode :: rest) :
    step s = runDecode { s with inputs := rest } :=
  step_event head

/-- Settles O34: the step runs DECODE (`step_decode`), and the MSB byte's value is the flag that selects its case. -/
theorem decodeStepSetsResults : Obligations.DecodeStepSetsResults := by
  intro s rest reading head
  simp only [step_decode head, ne_eq, ← posFlag_iff, ← negFlag_iff]
  exact ⟨runDecode_posFlag (s := { s with inputs := rest }) reading,
    runDecode_negFlag (s := { s with inputs := rest }) reading,
    runDecode_noFlag (s := { s with inputs := rest }) reading⟩

end Sys2Proof.Machine
end

section
/-! RESET (R127, R119): the step that takes it, the registers it leaves, and the clock in which it is the only event. -/

namespace Sys2Proof.Machine

theorem step_reset {s : State} {rest : List Event} (head : s.inputs = .reset :: rest) :
    step s = .next { s with inputs := rest }.applyReset :=
  step_event head

theorem State.applyReset_registers (s : State) : s.applyReset.registers = State.reset := rfl

theorem State.applyReset_outstanding (s : State) : s.applyReset.outstanding = none := by
  have idle : s.applyReset.state = .idle := by rw [State.applyReset_state, State.reset_state]
  exact State.outstanding_of_not_onBus (by rw [idle]; decide) (by rw [idle]; decide)

theorem ClockInputs.events_of_reset {c : ClockInputs} (h : c.reset = true) : c.events = [.reset] := if_pos h

theorem takeEvents_singleton (e : Event) (s : State) : takeEvents [e] s = takeEvent e s := by
  rw [takeEvents]
  cases takeEvent e s <;> rfl

theorem clockStep_of_reset {c : ClockInputs} (h : c.reset = true) (s : State) :
    clockStep c s = takeEvent .reset s := by
  rw [clockStep, ClockInputs.events_of_reset h, takeEvents_singleton]

/-- Settles O37: the step goes on with `applyReset`, whose registers are those of the reset state, Idle among them; a
clock with RESET has no other event (`clockStep_of_reset`). -/
theorem resetSetsEveryElement : Obligations.ResetSetsEveryElement := by
  refine ⟨fun s rest head => ?step, fun _ _ _ => clockStep_of_reset rfl⟩
  case step =>
    exact ⟨{ s with inputs := rest }.applyReset, step_reset head, State.applyReset_registers _,
      State.applyReset_outstanding _⟩

end Sys2Proof.Machine
end

section
/-! The fields of a byte or a word: masks as bit fields, and words as the concatenation of their bytes. -/

namespace Sys2Proof

/-- A mask test on the bits `lo` to `lo + len - 1` is an equation of that field. -/
theorem and_mask_eq_iff {w : Nat} (lo : Nat) {len : Nat} (fits : lo + len ≤ w) (x : BitVec w) (v : BitVec len) :
    x &&& (BitVec.allOnes len).setWidth w <<< lo = v.setWidth w <<< lo ↔ x.extractLsb' lo len = v := by
  constructor
  · intro h
    ext i hi
    have hbit := congrArg (BitVec.getLsbD · (lo + i)) h
    simpa [hi, show lo + i < w by omega, show i < w by omega] using hbit
  · rintro rfl
    ext i hi
    by_cases hlo : i < lo
    · simp [hlo]
    · simp [hlo, show lo + (i - lo) = i by omega, hi, Bool.and_comm]

theorem ofBool_getLsbD {w : Nat} (b : BitVec w) (i : Nat) : BitVec.ofBool (b.getLsbD i) = b.extractLsb' i 1 := by
  ext j hj
  simp [show j = 0 by omega]

theorem wordOfLanes_extract (w : Word) :
    wordOfLanes (w.extractLsb' 0 8) (w.extractLsb' 8 8) (w.extractLsb' 16 8) (w.extractLsb' 24 8) = w := by
  rw [wordOfLanes, BitVec.extractLsb'_append_extractLsb'_eq_extractLsb' (by decide),
    BitVec.extractLsb'_append_extractLsb'_eq_extractLsb' (by decide),
    BitVec.extractLsb'_append_extractLsb'_eq_extractLsb' (by decide)]
  exact BitVec.extractLsb'_eq_self

theorem wordOfWire_extract (w : Word) :
    wordOfWire (w.extractLsb' 24 8) (w.extractLsb' 16 8) (w.extractLsb' 8 8) (w.extractLsb' 0 8) = w :=
  wordOfLanes_extract w

theorem wireBytes_append (b0 b1 b2 b3 : Byte) : wireBytes (b0 ++ b1 ++ b2 ++ b3) = [b0, b1, b2, b3] := by
  simp (disch := decide) only [wireBytes, BitVec.extractLsb'_append_eq_of_le, BitVec.extractLsb'_append_eq_of_add_le,
    Nat.reduceSub, BitVec.extractLsb'_eq_self]

theorem laneBytes_wordOfLanes (l0 l1 l2 l3 : Byte) : laneBytes (wordOfLanes l0 l1 l2 l3) = [l0, l1, l2, l3] :=
  congrArg List.reverse (wireBytes_append l3 l2 l1 l0)

end Sys2Proof
end

section
/-! The host access word as bytes (R50): the fields of its byte, and what the decoder reads there. -/

namespace Sys2Proof

theorem haByte_reserved (write : Bool) (off : BitVec 5) : (haByte write off).extractLsb' 6 2 = 0#2 :=
  BitVec.extractLsb'_append_eq_left

theorem haByte_offset (write : Bool) (off : BitVec 5) : (haByte write off).extractLsb' 0 5 = off := by
  rw [haByte, BitVec.extractLsb'_append_eq_of_add_le (by decide), Machine.haWord_off]

theorem haByte_dir (write : Bool) (off : BitVec 5) : (haByte write off).getLsbD 5 = write := by
  rw [haByte, BitVec.getLsbD_append, if_pos (by decide), Machine.haWord_dir]

theorem haByte_fields {h : Byte} (reserved : h.extractLsb' 6 2 = 0#2) :
    haByte (h.getLsbD 5) (h.extractLsb' 0 5) = h := by
  rw [haByte, haWord, ← reserved, ofBool_getLsbD, BitVec.extractLsb'_append_extractLsb'_eq_extractLsb' (by decide),
    BitVec.extractLsb'_append_extractLsb'_eq_extractLsb' (by decide)]
  exact BitVec.extractLsb'_eq_self

theorem decode_haByte_write {off : BitVec 5} {r : HostReg} (at_reg : HostReg.ofOffset off = some r) (data : Word)
    (rest : List Byte) :
    decode .hostAcc (haByte true off :: (laneBytes data ++ rest)) = .ok (writeInstr r data, rest) := by
  simp only [decode, laneBytes, List.cons_append, List.nil_append, haByte_reserved, haByte_offset, haByte_dir, at_reg,
    ne_eq, not_true_eq_false, if_false, if_true, wordOfLanes_extract]

theorem decode_haByte_read {off : BitVec 5} {r : HostReg} (at_reg : HostReg.ofOffset off = some r)
    (rest : List Byte) : decode .hostAcc (haByte false off :: rest) = .ok (readInstr r, rest) := by
  simp only [decode, haByte_reserved, haByte_offset, haByte_dir, at_reg, ne_eq, not_true_eq_false, if_false,
    Bool.false_eq_true]

theorem decode_haByte_misaligned {off : BitVec 5} (no_reg : HostReg.ofOffset off = none) (write : Bool)
    (rest : List Byte) : decode .hostAcc (haByte write off :: rest) = .error .misalignedOffset := by
  simp only [decode, haByte_reserved, haByte_offset, no_reg, ne_eq, not_true_eq_false, if_false]

theorem encode_writeInstr (r : HostReg) (data : Word) : encode (writeInstr r data) = hostWriteBytes r data := by
  cases r <;> rfl

theorem encode_readInstr (r : HostReg) : encode (readInstr r) = hostReadBytes r := by
  cases r <;> rfl

theorem decode_hostWriteBytes (r : HostReg) (data : Word) (rest : List Byte) :
    decode .hostAcc (hostWriteBytes r data ++ rest) = .ok (writeInstr r data, rest) :=
  decode_haByte_write (Machine.HostReg.ofOffset_offset r) data rest

theorem decode_hostReadBytes (r : HostReg) (rest : List Byte) :
    decode .hostAcc (hostReadBytes r ++ rest) = .ok (readInstr r, rest) :=
  decode_haByte_read (Machine.HostReg.ofOffset_offset r) rest

/-- Of the bytes of a host access, the decoder reads the write or the read of one register. -/
theorem decode_hostAcc_ok {bytes rest : List Byte} {i : Instr} (h : decode .hostAcc bytes = .ok (i, rest)) :
    (∃ r data, i = writeInstr r data ∧ bytes = hostWriteBytes r data ++ rest) ∨
    (∃ r, i = readInstr r ∧ bytes = hostReadBytes r ++ rest) := by
  cases bytes with
  | nil => cases h
  | cons ha tail =>
    by_cases reserved : ha.extractLsb' 6 2 = 0#2
    · have fields := haByte_fields reserved
      cases at_reg : HostReg.ofOffset (ha.extractLsb' 0 5) with
      | none =>
        rw [← fields, decode_haByte_misaligned at_reg] at h
        cases h
      | some r =>
        rw [Machine.HostReg.offset_of_ofOffset at_reg] at fields
        cases dir : ha.getLsbD 5 with
        | false =>
          rw [dir] at fields
          rw [← fields, decode_haByte_read (Machine.HostReg.ofOffset_offset r)] at h
          cases h
          exact .inr ⟨r, rfl, congrArg (· :: rest) fields.symm⟩
        | true =>
          rw [dir] at fields
          simp only [decode, reserved, at_reg, dir, ne_eq, not_true_eq_false, if_false, if_true] at h
          split at h
          · rename_i l0 l1 l2 l3 rest'
            cases h
            refine .inl ⟨r, wordOfLanes l0 l1 l2 l3, rfl, ?_⟩
            rw [hostWriteBytes, laneBytes_wordOfLanes, fields]
            rfl
          · cases h
    · simp only [decode, reserved, ne_eq, not_false_eq_true, if_true] at h
      cases h

end Sys2Proof
end

section
/-! The bus request word (R63) as bytes. -/

namespace Sys2Proof

theorem brwWord_dir (a : BusAddr) (read : Bool) : (brwWord a read).getLsbD 0 = read := by
  rw [brwWord, BitVec.getLsbD_append, if_pos (by decide), BitVec.getLsbD_ofBool]
  rfl

theorem brwWord_addr (a : BusAddr) (read : Bool) : (brwWord a read).extractLsb' 1 7 = a :=
  BitVec.extractLsb'_append_eq_left

theorem brwWord_fields (brw : Byte) : brwWord (brw.extractLsb' 1 7) (brw.getLsbD 0) = brw := by
  rw [brwWord, ofBool_getLsbD, BitVec.extractLsb'_append_extractLsb']

theorem decode_busWriteCmd (a : BusAddr) (payload : Byte) (rest : List Byte) :
    decode .busReq (encode (.busWriteCmd a payload) ++ rest) = .ok (.busWriteCmd a payload, rest) := by
  simp only [decode, encode, decodeBusReq, List.cons_append, List.nil_append, brwWord_dir, brwWord_addr,
    Bool.false_eq_true, if_false]

theorem decode_busRead4 (a : BusAddr) (rest : List Byte) :
    decode .busReq (encode (.busRead4 a) ++ rest) = .ok (.busRead4 a, rest) := by
  simp only [decode, encode, decodeBusReq, List.cons_append, List.nil_append, brwWord_dir, brwWord_addr, if_true]

/-- Of the bytes of a bus request, the decoder reads a command write with its payload or a read attempt. -/
theorem decode_busReq_ok {bytes rest : List Byte} {i : Instr} (h : decode .busReq bytes = .ok (i, rest)) :
    (∃ a payload, i = .busWriteCmd a payload ∧ bytes = encode (.busWriteCmd a payload) ++ rest) ∨
    (∃ a, i = .busRead4 a ∧ bytes = encode (.busRead4 a) ++ rest) := by
  cases bytes with
  | nil => cases h
  | cons brw tail =>
    have fields := brwWord_fields brw
    cases dir : brw.getLsbD 0 with
    | true =>
      simp only [decode, decodeBusReq, dir, if_true] at h
      cases h
      rw [dir] at fields
      exact .inr ⟨_, rfl, congrArg (· :: rest) fields.symm⟩
    | false =>
      rw [dir] at fields
      cases tail with
      | nil =>
        simp only [decode, dir, Bool.false_eq_true, if_false] at h
        cases h
      | cons payload tail =>
        simp only [decode, decodeBusReq, dir, Bool.false_eq_true, if_false] at h
        cases h
        exact .inl ⟨_, payload, rfl, congrArg (· :: payload :: rest) fields.symm⟩

end Sys2Proof
end

section
/-! The raw-sample word (R61, R64): the case its MSB byte selects, and its bytes. -/

namespace Sys2Proof

/-- The MSB byte of a word is the marker and the upper 7 bits of the data field (R61). -/
theorem msbByte_eq_rawMsb (marker : BitVec 1) (data : BitVec 24) (sub : BitVec 7) :
    (marker ++ data ++ sub).extractLsb' 24 8 = rawMsb marker data := by
  rw [rawMsb, BitVec.extractLsb'_append_eq_of_le (by decide), BitVec.extractLsb'_append_eq_ite, dif_pos (by decide),
    dif_neg (by decide), BitVec.cast_eq]
  exact congrArg (· ++ data.extractLsb' 17 7) BitVec.extractLsb'_eq_self

theorem rawFields_append (w : Word) : w.extractLsb' 31 1 ++ w.extractLsb' 7 24 ++ w.extractLsb' 0 7 = w := by
  rw [BitVec.extractLsb'_append_extractLsb'_eq_extractLsb' (by decide),
    BitVec.extractLsb'_append_extractLsb'_eq_extractLsb' (by decide)]
  exact BitVec.extractLsb'_eq_self

theorem msbByte_append_low (w : Word) : w.extractLsb' 24 8 ++ w.extractLsb' 0 24 = w :=
  BitVec.extractLsb'_append_extractLsb'

theorem decodeRaw32_of_pos {w : Word} (pos : w.extractLsb' 24 8 = 0xC0#8) :
    decodeRaw32 w = .decPosovf (w.extractLsb' 0 24) := if_pos pos

theorem decodeRaw32_of_neg {w : Word} (neg : w.extractLsb' 24 8 = 0x3F#8) :
    decodeRaw32 w = .decNegovf (w.extractLsb' 0 24) := by
  rw [decodeRaw32, if_neg (by rw [neg]; decide), if_pos neg]

theorem decodeRaw32_of_neither {w : Word} (notPos : w.extractLsb' 24 8 ≠ 0xC0#8)
    (notNeg : w.extractLsb' 24 8 ≠ 0x3F#8) :
    decodeRaw32 w = .decNormal (w.extractLsb' 31 1) (w.extractLsb' 7 24) (w.extractLsb' 0 7) := by
  rw [decodeRaw32, if_neg notPos, if_neg notNeg]

theorem decodeRaw32_posovf (low : BitVec 24) : decodeRaw32 (0xC0#8 ++ low) = .decPosovf low := by
  rw [decodeRaw32_of_pos BitVec.extractLsb'_append_eq_left, BitVec.extractLsb'_append_eq_right]

theorem decodeRaw32_negovf (low : BitVec 24) : decodeRaw32 (0x3F#8 ++ low) = .decNegovf low := by
  rw [decodeRaw32_of_neg BitVec.extractLsb'_append_eq_left, BitVec.extractLsb'_append_eq_right]

theorem decodeRaw32_normal {marker : BitVec 1} {data : BitVec 24} {sub : BitVec 7}
    (wf : wellFormed (.decNormal marker data sub) = true) :
    decodeRaw32 (marker ++ data ++ sub) = .decNormal marker data sub := by
  rw [wellFormed, Bool.and_eq_true, bne_iff_ne, bne_iff_ne, ← msbByte_eq_rawMsb marker data sub] at wf
  obtain ⟨notPos, notNeg⟩ := wf
  rw [decodeRaw32_of_neither notPos notNeg]
  simp (disch := decide) only [BitVec.extractLsb'_append_eq_of_le, BitVec.extractLsb'_append_eq_of_add_le,
    Nat.reduceSub, BitVec.extractLsb'_eq_self]

/-- Whatever case a raw-sample word selects, its instruction is one of that word. -/
theorem decodeRaw32_spec (w : Word) :
    wellFormed (decodeRaw32 w) = true ∧ formatOf (decodeRaw32 w) = .raw32 ∧ encode (decodeRaw32 w) = wireBytes w := by
  by_cases pos : w.extractLsb' 24 8 = 0xC0#8
  · rw [decodeRaw32_of_pos pos]
    exact ⟨rfl, rfl, by rw [encode, ← pos, msbByte_append_low]⟩
  by_cases neg : w.extractLsb' 24 8 = 0x3F#8
  · rw [decodeRaw32_of_neg neg]
    exact ⟨rfl, rfl, by rw [encode, ← neg, msbByte_append_low]⟩
  · rw [decodeRaw32_of_neither pos neg]
    refine ⟨?_, rfl, by rw [encode, rawFields_append]⟩
    rw [wellFormed, ← msbByte_eq_rawMsb _ _ (w.extractLsb' 0 7), rawFields_append, Bool.and_eq_true, bne_iff_ne,
      bne_iff_ne]
    exact ⟨pos, neg⟩

theorem decode_wireBytes {w : Word} {i : Instr} (selected : decodeRaw32 w = i) (rest : List Byte) :
    decode .raw32 (wireBytes w ++ rest) = .ok (i, rest) := by
  rw [← selected]
  exact congrArg (fun v => Except.ok (decodeRaw32 v, rest)) (wordOfWire_extract w)

end Sys2Proof
end

section
/-! The command byte (R56): its fields by mask, its composition, and the rows it matches. -/

namespace Sys2Proof

open Machine

/-! ## The fields by mask -/

theorem speed_zero_iff (b : Byte) : b &&& 0x01#8 = 0x00#8 ↔ b.extractLsb' 0 1 = 0#1 :=
  and_mask_eq_iff 0 (by decide) b 0#1

theorem speed_one_iff (b : Byte) : b &&& 0x01#8 = 0x01#8 ↔ b.extractLsb' 0 1 = 1#1 :=
  and_mask_eq_iff 0 (by decide) b 1#1

theorem rejection_zero_iff (b : Byte) : b &&& 0x06#8 = 0x00#8 ↔ b.extractLsb' 1 2 = 0b00#2 :=
  and_mask_eq_iff 1 (by decide) b 0b00#2

theorem rejection_one_iff (b : Byte) : b &&& 0x06#8 = 0x02#8 ↔ b.extractLsb' 1 2 = 0b01#2 :=
  and_mask_eq_iff 1 (by decide) b 0b01#2

theorem rejection_two_iff (b : Byte) : b &&& 0x06#8 = 0x04#8 ↔ b.extractLsb' 1 2 = 0b10#2 :=
  and_mask_eq_iff 1 (by decide) b 0b10#2

theorem rejection_three_iff (b : Byte) : b &&& 0x06#8 = 0x06#8 ↔ b.extractLsb' 1 2 = 0b11#2 :=
  and_mask_eq_iff 1 (by decide) b 0b11#2

theorem input_zero_iff (b : Byte) : b &&& 0x08#8 = 0x00#8 ↔ b.extractLsb' 3 1 = 0#1 :=
  and_mask_eq_iff 3 (by decide) b 0#1

theorem input_one_iff (b : Byte) : b &&& 0x08#8 = 0x08#8 ↔ b.extractLsb' 3 1 = 1#1 :=
  and_mask_eq_iff 3 (by decide) b 1#1

theorem bit_eq_one_of_ne_zero {v : BitVec 1} (h : v ≠ 0#1) : v = 1#1 := by
  revert v
  decide

theorem rejection_eq_three {v : BitVec 2} (h0 : v ≠ 0b00#2) (h1 : v ≠ 0b01#2) (h2 : v ≠ 0b10#2) : v = 0b11#2 := by
  revert v
  decide

/-! ## The rows -/

theorem decodeCmd8_spec (field : CmdField) (b : Byte) :
    wellFormed (decodeCmd8 field b) = true ∧ formatOf (decodeCmd8 field b) = .cmd8 field ∧
      encode (decodeCmd8 field b) = [b] := by
  cases field with
  | spd =>
    simp only [decodeCmd8]
    split
    case isTrue h => exact ⟨beq_iff_eq.2 ((speed_zero_iff b).2 h), rfl, rfl⟩
    case isFalse h => exact ⟨beq_iff_eq.2 ((speed_one_iff b).2 (bit_eq_one_of_ne_zero h)), rfl, rfl⟩
  | fr =>
    simp only [decodeCmd8]
    split
    case isTrue h => exact ⟨beq_iff_eq.2 ((rejection_zero_iff b).2 h), rfl, rfl⟩
    split
    case isTrue h => exact ⟨beq_iff_eq.2 ((rejection_one_iff b).2 h), rfl, rfl⟩
    split
    case isTrue h => exact ⟨beq_iff_eq.2 ((rejection_two_iff b).2 h), rfl, rfl⟩
    case isFalse h0 h1 h2 =>
      exact ⟨beq_iff_eq.2 ((rejection_three_iff b).2 (rejection_eq_three h0 h1 h2)), rfl, rfl⟩
  | im =>
    simp only [decodeCmd8]
    split
    case isTrue h => exact ⟨beq_iff_eq.2 ((input_zero_iff b).2 h), rfl, rfl⟩
    case isFalse h => exact ⟨beq_iff_eq.2 ((input_one_iff b).2 (bit_eq_one_of_ne_zero h)), rfl, rfl⟩
  | reservedHi => exact ⟨rfl, rfl, rfl⟩

theorem decodeCmd8_cmdSpd1x {b : Byte} (wf : wellFormed (.cmdSpd1x b) = true) : decodeCmd8 .spd b = .cmdSpd1x b :=
  if_pos ((speed_zero_iff b).1 (beq_iff_eq.1 wf))

theorem decodeCmd8_cmdImExternal {b : Byte} (wf : wellFormed (.cmdImExternal b) = true) :
    decodeCmd8 .im b = .cmdImExternal b :=
  if_pos ((input_zero_iff b).1 (beq_iff_eq.1 wf))

theorem decodeCmd8_cmdSpd2x {b : Byte} (wf : wellFormed (.cmdSpd2x b) = true) :
    decodeCmd8 .spd b = .cmdSpd2x b := by
  simp only [decodeCmd8, (speed_one_iff b).1 (beq_iff_eq.1 wf)]
  rfl

theorem decodeCmd8_cmdFr5060hz {b : Byte} (wf : wellFormed (.cmdFr5060hz b) = true) :
    decodeCmd8 .fr b = .cmdFr5060hz b := by
  simp only [decodeCmd8, (rejection_zero_iff b).1 (beq_iff_eq.1 wf)]
  rfl

theorem decodeCmd8_cmdFr50hz {b : Byte} (wf : wellFormed (.cmdFr50hz b) = true) :
    decodeCmd8 .fr b = .cmdFr50hz b := by
  simp only [decodeCmd8, (rejection_one_iff b).1 (beq_iff_eq.1 wf)]
  rfl

theorem decodeCmd8_cmdFr60hz {b : Byte} (wf : wellFormed (.cmdFr60hz b) = true) :
    decodeCmd8 .fr b = .cmdFr60hz b := by
  simp only [decodeCmd8, (rejection_two_iff b).1 (beq_iff_eq.1 wf)]
  rfl

theorem decodeCmd8_cmdFrReserved {b : Byte} (wf : wellFormed (.cmdFrReserved b) = true) :
    decodeCmd8 .fr b = .cmdFrReserved b := by
  simp only [decodeCmd8, (rejection_three_iff b).1 (beq_iff_eq.1 wf)]
  rfl

theorem decodeCmd8_cmdImInternalTemp {b : Byte} (wf : wellFormed (.cmdImInternalTemp b) = true) :
    decodeCmd8 .im b = .cmdImInternalTemp b := by
  simp only [decodeCmd8, (input_one_iff b).1 (beq_iff_eq.1 wf)]
  rfl

theorem decode_commandRow {field : CmdField} {b : Byte} {i : Instr} (row : decodeCmd8 field b = i)
    (rest : List Byte) : decode (.cmd8 field) ([b] ++ rest) = .ok (i, rest) :=
  congrArg (fun j => Except.ok (j, rest)) row

/-! ## The fields and the byte -/

theorem rejectionOf_eq_iff (fr : BitVec 2) (r : Rejection) : rejectionOf fr = r ↔ fr = rejectionCode r := by
  cases r <;> revert fr <;> decide

theorem getLsbD_eq_true_iff {w : Nat} (b : BitVec w) (i : Nat) : b.getLsbD i = true ↔ b.extractLsb' i 1 = 1#1 := by
  rw [BitVec.getLsbD_eq_extractLsb', beq_iff_eq]

theorem commandByte_commandFields (b : Byte) : commandByte (commandFields b) = b := by
  simp only [commandByte, commandFields, ofBool_getLsbD, ← (rejectionOf_eq_iff _ _).1 rfl]
  rw [BitVec.extractLsb'_append_extractLsb'_eq_extractLsb' (by decide),
    BitVec.extractLsb'_append_extractLsb'_eq_extractLsb' (by decide),
    BitVec.extractLsb'_append_extractLsb'_eq_extractLsb' (by decide)]
  exact BitVec.extractLsb'_eq_self

theorem commandFields_commandByte (f : CommandFields) : commandFields (commandByte f) = f := by
  have rejection : (commandByte f).extractLsb' 1 2 = rejectionCode f.rejection := by
    simp (disch := decide) only [commandByte, BitVec.extractLsb'_append_eq_of_le,
      BitVec.extractLsb'_append_eq_of_add_le, Nat.reduceSub, BitVec.extractLsb'_eq_self]
  obtain ⟨speed, input⟩ : (commandByte f).getLsbD 0 = f.speed2x ∧ (commandByte f).getLsbD 3 = f.internalTemp := by
    simp only [commandByte, BitVec.getLsbD_append, BitVec.getLsbD_ofBool]
    simp
  have high : (commandByte f).extractLsb' 4 4 = f.reservedHi := by
    simp (disch := decide) only [commandByte, BitVec.extractLsb'_append_eq_of_le, Nat.reduceSub,
      BitVec.extractLsb'_eq_self]
  rw [commandFields, rejection, speed, input, high, (rejectionOf_eq_iff _ f.rejection).2 rfl]

/-- Settles O6: a byte is the concatenation of its fields, and each single-field value of R56 is a mask on the bits of
that field. -/
theorem commandByteFields : Obligations.CommandByteFields := by
  refine ⟨commandByte_commandFields, commandFields_commandByte, fun b => ?_⟩
  rw [speed_one_iff, input_one_iff, rejection_zero_iff, rejection_one_iff, rejection_two_iff, rejection_three_iff]
  exact ⟨getLsbD_eq_true_iff b 0, getLsbD_eq_true_iff b 3, rejectionOf_eq_iff _ .hz50and60, rejectionOf_eq_iff _ .hz50,
    rejectionOf_eq_iff _ .hz60, rejectionOf_eq_iff _ .reserved⟩

end Sys2Proof
end

section
/-! Decoder and encoder against each other (R50, R56, R61 with R64, R63), put together from the four formats. -/

namespace Sys2Proof

open Machine

/-- Settles O3: for each instruction, what the decoder of its format reads from its bytes. -/
theorem decodeOfEncodeIsIdentity : Obligations.DecodeOfEncodeIsIdentity := by
  intro i rest wf
  cases i with
  | wrCtrl data => exact decode_hostWriteBytes .ctrl data rest
  | wrStatus data => exact decode_hostWriteBytes .status data rest
  | wrAddr data => exact decode_hostWriteBytes .addr data rest
  | wrCmd data => exact decode_hostWriteBytes .cmd data rest
  | wrTimeout data => exact decode_hostWriteBytes .timeout data rest
  | wrRaw data => exact decode_hostWriteBytes .raw data rest
  | wrResult data => exact decode_hostWriteBytes .result data rest
  | wrTickcnt data => exact decode_hostWriteBytes .tickcnt data rest
  | rdCtrl => exact decode_hostReadBytes .ctrl rest
  | rdStatus => exact decode_hostReadBytes .status rest
  | rdAddr => exact decode_hostReadBytes .addr rest
  | rdCmd => exact decode_hostReadBytes .cmd rest
  | rdTimeout => exact decode_hostReadBytes .timeout rest
  | rdRaw => exact decode_hostReadBytes .raw rest
  | rdResult => exact decode_hostReadBytes .result rest
  | rdTickcnt => exact decode_hostReadBytes .tickcnt rest
  | busWriteCmd a payload => exact decode_busWriteCmd a payload rest
  | busRead4 a => exact decode_busRead4 a rest
  | decPosovf low => exact decode_wireBytes (decodeRaw32_posovf low) rest
  | decNegovf low => exact decode_wireBytes (decodeRaw32_negovf low) rest
  | decNormal marker data sub => exact decode_wireBytes (decodeRaw32_normal wf) rest
  | cmdSpd1x b => exact decode_commandRow (decodeCmd8_cmdSpd1x wf) rest
  | cmdSpd2x b => exact decode_commandRow (decodeCmd8_cmdSpd2x wf) rest
  | cmdFr5060hz b => exact decode_commandRow (decodeCmd8_cmdFr5060hz wf) rest
  | cmdFr50hz b => exact decode_commandRow (decodeCmd8_cmdFr50hz wf) rest
  | cmdFr60hz b => exact decode_commandRow (decodeCmd8_cmdFr60hz wf) rest
  | cmdFrReserved b => exact decode_commandRow (decodeCmd8_cmdFrReserved wf) rest
  | cmdImExternal b => exact decode_commandRow (decodeCmd8_cmdImExternal wf) rest
  | cmdImInternalTemp b => exact decode_commandRow (decodeCmd8_cmdImInternalTemp wf) rest
  | cmdReservedHi b => exact decode_commandRow rfl rest

theorem writeInstr_wellFormed (r : HostReg) (data : Word) :
    wellFormed (writeInstr r data) = true ∧ formatOf (writeInstr r data) = .hostAcc := by
  cases r <;> exact ⟨rfl, rfl⟩

theorem readInstr_wellFormed (r : HostReg) : wellFormed (readInstr r) = true ∧ formatOf (readInstr r) = .hostAcc := by
  cases r <;> exact ⟨rfl, rfl⟩

/-- Of the bytes of a raw sample, the decoder reads four, in wire order. -/
theorem decode_raw32_ok {bytes rest : List Byte} {i : Instr} (h : decode .raw32 bytes = .ok (i, rest)) :
    ∃ w, i = decodeRaw32 w ∧ bytes = wireBytes w ++ rest := by
  match bytes, h with
  | b0 :: b1 :: b2 :: b3 :: tail, h =>
    cases h
    exact ⟨wordOfWire b0 b1 b2 b3, rfl, by rw [wordOfWire, wireBytes_append]; rfl⟩

/-- Settles O4: in each format, the decoder reads from the head of the bytes an instruction of that format, and the
bytes it takes are the instruction's. -/
theorem encodeOfDecodeIsIdentity : Obligations.EncodeOfDecodeIsIdentity := by
  intro f bytes rest i h
  cases f with
  | hostAcc =>
    obtain ⟨r, data, rfl, rfl⟩ | ⟨r, rfl, rfl⟩ := decode_hostAcc_ok h
    · have ⟨wf, format⟩ := writeInstr_wellFormed r data
      exact ⟨wf, format, by rw [encode_writeInstr]⟩
    · have ⟨wf, format⟩ := readInstr_wellFormed r
      exact ⟨wf, format, by rw [encode_readInstr]⟩
  | busReq =>
    obtain ⟨a, payload, rfl, rfl⟩ | ⟨a, rfl, rfl⟩ := decode_busReq_ok h <;> exact ⟨rfl, rfl, rfl⟩
  | raw32 =>
    obtain ⟨w, rfl, rfl⟩ := decode_raw32_ok h
    have ⟨wf, format, bytes⟩ := decodeRaw32_spec w
    exact ⟨wf, format, by rw [bytes]⟩
  | cmd8 field =>
    cases bytes with
    | nil => cases h
    | cons b tail =>
      cases h
      have ⟨wf, format, bytes⟩ := decodeCmd8_spec field b
      exact ⟨wf, format, by rw [bytes]; rfl⟩

/-- Settles O2: the decoder computes each of the ten answers. -/
theorem writtenOutWordsDecode : Obligations.WrittenOutWordsDecode :=
  ⟨rfl, rfl, rfl, rfl, rfl, rfl, rfl, rfl, rfl, rfl⟩

theorem posMask_iff (w : Word) : w &&& 0xFF000000#32 = 0xC0000000#32 ↔ w.extractLsb' 24 8 = 0xC0#8 :=
  and_mask_eq_iff 24 (by decide) w 0xC0#8

theorem negMask_iff (w : Word) : w &&& 0xFF000000#32 = 0x3F000000#32 ↔ w.extractLsb' 24 8 = 0x3F#8 :=
  and_mask_eq_iff 24 (by decide) w 0x3F#8

/-- Settles O5: the masks test the MSB byte, and its three cases have three different instructions. -/
theorem sampleWordSelectsCase : Obligations.SampleWordSelectsCase := by
  intro w
  rw [ne_eq, ne_eq, posMask_iff, negMask_iff]
  by_cases pos : w.extractLsb' 24 8 = 0xC0#8
  · simp [decodeRaw32_of_pos pos, pos]
  by_cases neg : w.extractLsb' 24 8 = 0x3F#8
  · simp [decodeRaw32_of_neg neg, neg]
  · simp [decodeRaw32_of_neither pos neg, pos, neg, rawFields_append]

end Sys2Proof
end

section
/-! Host accesses by their shape (R38, R39): the offsets of registers, which accesses are refused and which go on. -/

namespace Sys2Proof.Machine

theorem extract_ofNat_eq_zero_iff (off : Nat) : (BitVec.ofNat 5 off).extractLsb' 0 2 = 0#2 ↔ off % 4 = 0 := by
  rw [← BitVec.toNat_inj, BitVec.extractLsb'_toNat, BitVec.toNat_ofNat, Nat.shiftRight_zero,
    Nat.mod_mod_of_dvd off (by decide)]
  rfl

theorem HostReg.ofOffset_aligned {off : BitVec 5} (aligned : off.extractLsb' 0 2 = 0#2) :
    ∃ r, HostReg.ofOffset off = some r := by
  rw [← Option.isSome_iff_exists]
  revert off
  decide

theorem HostReg.offset_toNat {off : Nat} (inWindow : off < 32) {r : HostReg}
    (atReg : HostReg.ofOffset (BitVec.ofNat 5 off) = some r) : off = r.offset.toNat := by
  rw [← HostReg.offset_of_ofOffset atReg, BitVec.toNat_ofNat, Nat.mod_eq_of_lt inWindow]

theorem takeHostAccess_illShaped {off n : Nat} (illShaped : n ≠ 4 ∨ 32 ≤ off ∨ off % 4 ≠ 0) (write : Bool)
    (data : Word) (s : State) :
    ∃ r, takeHostAccess write off n data s = .refused r ∧
      (r = .accessWidth ∧ n ≠ 4 ∨ r = .outsideWindow ∧ 32 ≤ off ∨ r = .misalignedOffset ∧ off % 4 ≠ 0) := by
  by_cases width : n ≠ 4
  · exact ⟨_, if_pos width, .inl ⟨rfl, width⟩⟩
  by_cases window : 32 ≤ off
  · exact ⟨_, (if_neg width).trans (if_pos window), .inr (.inl ⟨rfl, window⟩)⟩
  have misaligned : off % 4 ≠ 0 := (illShaped.resolve_left width).resolve_left window
  have noReg := HostReg.ofOffset_misaligned (mt (extract_ofNat_eq_zero_iff off).1 misaligned)
  refine ⟨_, (if_neg width).trans ((if_neg window).trans ?_), .inr (.inr ⟨rfl, misaligned⟩)⟩
  simp only [decodeHostAcc, haWord_off, noReg]

/-- Settles O16: the next event is the access, and the three tests of `takeHostAccess` name its shape
(`takeHostAccess_illShaped`). -/
theorem illShapedHostAccessesAreRefused : Obligations.IllShapedHostAccessesAreRefused := by
  intro s rest off n data illShaped head
  obtain head | head := head
  · rw [step_event head]; exact takeHostAccess_illShaped illShaped true data _
  · rw [step_event head]; exact takeHostAccess_illShaped illShaped false 0#32 _

theorem exec_hostAccess_next (write : Bool) (r : HostReg) (data : Word) (s : State) :
    ∃ t, exec (if write then writeInstr r data else readInstr r) s = .next t := by
  cases write with
  | false => exact ⟨_, exec_readInstr r s⟩
  | true =>
    rw [if_pos rfl, exec_writeInstr]
    cases r <;> exact ⟨_, rfl⟩

theorem takeHostAccess_aligned {off : Nat} (inWindow : off < 32) (aligned : off % 4 = 0) (write : Bool) (data : Word)
    (s : State) : ∃ t, takeHostAccess write off 4 data s = .next t := by
  obtain ⟨r, atReg⟩ := HostReg.ofOffset_aligned ((extract_ofNat_eq_zero_iff off).2 aligned)
  obtain rfl := HostReg.offset_toNat inWindow atReg
  rw [takeHostAccess_reg]
  exact exec_hostAccess_next write r data s

theorem takeEvent_keeps_inputs {e : Event} {s t : State} (h : takeEvent e s = .next t) : t.inputs = s.inputs := by
  have same := takeEvent_inputs e s s.inputs
  rw [show ({ s with inputs := s.inputs } : State) = s from rfl, h] at same
  injection same with same
  exact (congrArg State.inputs same :)

theorem step_goes_on {s : State} {e : Event} {rest : List Event} (head : s.inputs = e :: rest)
    (taken : ∃ t, takeEvent e { s with inputs := rest } = .next t) : ∃ t, step s = .next t ∧ t.inputs = rest := by
  obtain ⟨t, next⟩ := taken
  exact ⟨t, (step_event head).trans next, takeEvent_keeps_inputs next⟩

/-- Settles O17: an aligned access of the window is at a register, whose instruction completes, and no event looks at
the events after it. -/
theorem alignedHostAccessesAlwaysComplete : Obligations.AlignedHostAccessesAlwaysComplete := by
  intro s rest off data inWindow aligned head
  obtain head | head := head
  · exact step_goes_on head (takeHostAccess_aligned inWindow aligned true data _)
  · exact step_goes_on head (takeHostAccess_aligned inWindow aligned false 0#32 _)

/-- Settles O8: where the bytes decode, their offset is a register's, and the step takes that register's access. -/
theorem hostAccessStepRunsDecodedInstruction : Obligations.HostAccessStepRunsDecodedInstruction := by
  intro s off rest i inWindow
  cases atReg : HostReg.ofOffset (BitVec.ofNat 5 off) with
  | none =>
    simp only [decode_haByte_misaligned atReg]
    exact ⟨fun _ _ => nofun, fun _ => nofun⟩
  | some r =>
    have atOffset := HostReg.offset_toNat inWindow atReg
    refine ⟨fun data head decoded => ?write, fun head decoded => ?read⟩
    case write =>
      cases (decode_haByte_write atReg data []).symm.trans decoded
      rw [step_event head, atOffset]
      exact takeHostAccess_reg true r data _
    case read =>
      cases (decode_haByte_read atReg []).symm.trans decoded
      rw [step_event head, atOffset]
      exact takeHostAccess_reg false r 0#32 _

end Sys2Proof.Machine
end

section
/-! START as the next event (R69): which events are an accepted START, and the step that takes one; and the meanings
that issue a request or change nothing. -/

namespace Sys2Proof.Machine

theorem acceptsStart_iff (s : State) (e : Event) :
    acceptsStart s e = true ↔ ∃ data : Word, e = .hostWr 0 4 data ∧ data.getLsbD 0 = true ∧ s.busy = false := by
  constructor
  · intro h
    cases e with
    | hostWr off n data =>
      simp only [acceptsStart, Bool.and_eq_true, beq_iff_eq, Bool.not_eq_true'] at h
      obtain ⟨⟨⟨rfl, rfl⟩, bit0⟩, free⟩ := h
      exact ⟨data, rfl, bit0, free⟩
    | hostRd off n | busWriteResp code | busReadResp answer | tick | decode | reset => cases h
  · rintro ⟨data, rfl, bit0, free⟩
    simp [acceptsStart, bit0, free]

theorem takeEvent_start {data : Word} (bit0 : data.getLsbD 0 = true) (s : State) :
    takeEvent (.hostWr 0 4 data) s = .next s.requestStart := by
  have access : takeEvent (.hostWr 0 4 data) s = exec (.wrCtrl data) s := takeHostAccess_reg true .ctrl data s
  rw [access, exec_wrCtrl, if_pos bit0]

theorem step_startAccepted {s : State} {data : Word} {rest : List Event} (head : s.inputs = .hostWr 0 4 data :: rest)
    (bit0 : data.getLsbD 0 = true) (free : s.busy = false) :
    step s = .next ({ s with inputs := rest } : State).beginCycle := by
  rw [step_event head, takeEvent_start bit0, State.requestStart_notBusy (s := { s with inputs := rest }) free]

/-- Settles O10: each step's next state is that of the transaction it runs, in the state with the other writes of its
rule. -/
theorem busStepsRunTransactions : Obligations.BusStepsRunTransactions := by
  intro s rest
  refine ⟨fun data free bit0 head => ?start, fun sent head => ?writeAnswer, fun waiting pollWait head => ?tick⟩
  case start => exact step_startAccepted head bit0 free
  case writeAnswer =>
    rw [step_busWriteResp head, takeWriteAnswer_success (s := { s with inputs := rest }) sent]
    rfl
  case tick =>
    rw [step_tick head, takeTick_inPollWait (s := { s with inputs := rest }) (s.inPollWait_iff.2 ⟨waiting, pollWait⟩)]
    rfl

/-- Settles O18: each transaction is the issue of its request, and its BRW is `brwWord` of its direction. -/
theorem busTransactionsIssueRequests : Obligations.BusTransactionsIssueRequests :=
  fun _ _ _ => ⟨rfl, rfl, rfl, rfl, rfl, rfl⟩

/-- Settles O35: each row carries its byte on and leaves the state. -/
theorem commandFieldRowsChangeNothing : Obligations.CommandFieldRowsChangeNothing :=
  fun _ _ => ⟨rfl, rfl, rfl, rfl, rfl, rfl, rfl, rfl, rfl⟩

end Sys2Proof.Machine
end

section
/-! Events that are not enabled (R128), the machine without events (R13(2), R134), and what RESET leaves. -/

namespace Sys2Proof.Machine

theorem takeWriteAnswer_notSent {s : State} (notSent : s.state ≠ .commandSent) (code : BusStatus) :
    takeWriteAnswer code s = s := if_neg notSent

theorem takeReadAnswer_notPending {s : State} (notPending : s.readPending = false) (answer : ReadAnswer) :
    takeReadAnswer answer s = s := if_neg (Bool.eq_false_iff.1 notPending)

theorem takeReadAnswer_timedOut {s : State} {answer : ReadAnswer} (pending : s.readPending = true)
    (short : answer.bytes.length < 4) (exceeded : s.reqTimeout.toNat < (s.tickcnt + 1#17).toNat) :
    takeReadAnswer answer s =
      { s with
        tickcnt := s.tickcnt + 1#17, state := .timeout,
        history := s.history ++ [.read s.reqAddr answer.bytes] } := by
  rw [takeReadAnswer_short pending short, if_pos exceeded]

theorem takeReadAnswer_toRetry {s : State} {answer : ReadAnswer} (pending : s.readPending = true)
    (short : answer.bytes.length < 4) (within : (s.tickcnt + 1#17).toNat ≤ s.reqTimeout.toNat) :
    takeReadAnswer answer s =
      { s with
        tickcnt := s.tickcnt + 1#17, pollWait := true,
        history := s.history ++ [.read s.reqAddr answer.bytes] } := by
  rw [takeReadAnswer_short pending short, if_neg (Nat.not_lt.2 within)]

theorem State.readPending_eq_false_iff (s : State) :
    s.readPending = false ↔ s.state ≠ .awaitingConversion ∨ s.pollWait = true := by
  rw [← Bool.not_eq_true, s.readPending_iff, not_and_or, Bool.not_eq_false]

/-- Settles O25: each of the three events leaves a state in which it is not enabled. -/
theorem eventsNotEnabledAreDropped : Obligations.EventsNotEnabledAreDropped := by
  intro s rest
  refine ⟨fun code notSent head => ?write, fun answer notPending head => ?read, fun notReading head => ?decode⟩
  case write => rw [step_busWriteResp head, takeWriteAnswer_notSent (s := { s with inputs := rest }) notSent]
  case read =>
    rw [step_busReadResp head,
      takeReadAnswer_notPending (s := { s with inputs := rest }) (s.readPending_eq_false_iff.2 notPending)]
  case decode => rw [step_decode head, runDecode_notReading (s := { s with inputs := rest }) notReading]

theorem step_noEvent_reading {s : State} (noEvent : s.inputs = []) (reading : s.state = .reading) :
    step s = runDecode s := by
  rw [step_noEvent noEvent, controllerTurn, if_pos reading]

theorem State.waitsFor_commandSent {s : State} (sent : s.state = .commandSent) : s.waitsFor = .awaitingBusAnswer := by
  simp [State.waitsFor, State.inPollWait, sent]

theorem State.waitsFor_readPending {s : State} (waiting : s.state = .awaitingConversion)
    (pending : s.pollWait = false) : s.waitsFor = .awaitingBusAnswer := by
  simp [State.waitsFor, State.inPollWait, waiting, pending]

theorem State.waitsFor_inPollWait {s : State} (polling : s.inPollWait = true) : s.waitsFor = .awaitingTick :=
  if_pos polling

theorem State.waitsFor_notBusy {s : State} (free : s.busy = false) : s.waitsFor = .awaitingHost := by
  obtain ⟨notSent, notWaiting, -⟩ := s.busy_eq_false_iff.1 free
  simp [State.waitsFor, State.inPollWait, notSent, notWaiting]

/-- Settles O38: without events a state other than Reading stops for what it waits for (`step_noEvent_notReading`), and
in Reading the controller's turn is the DECODE event's. -/
theorem stuckWithoutEnvironment : Obligations.StuckWithoutEnvironment := by
  intro s noEvent
  have stuck (notReading : s.state ≠ .reading) := step_noEvent_notReading noEvent notReading
  refine ⟨fun sent => ?sent, fun waiting pending => ?pending, fun waiting pollWait => ?polling, fun free => ?free,
    fun reading => ?reading⟩
  case sent => rw [stuck (by simp [sent]), State.waitsFor_commandSent sent]
  case pending => rw [stuck (by simp [waiting]), State.waitsFor_readPending waiting pending]
  case polling =>
    rw [stuck (by simp [waiting]), State.waitsFor_inPollWait (s.inPollWait_iff.2 ⟨waiting, pollWait⟩)]
  case free =>
    have free : s.busy = false := by
      rcases free with h | h | h | h <;> simp [State.busy, h, SeqState.inFlight]
    rw [stuck (s.busy_eq_false_iff.1 free).2.2, State.waitsFor_notBusy free]
  case reading =>
    rw [step_noEvent_reading noEvent reading, step_decode (s := { s with inputs := [.decode] }) rfl, ← noEvent]

/-- Settles O60: RESET writes the registers only. -/
theorem resetLeavesObservations : Obligations.ResetLeavesObservations :=
  fun _ _ head => ⟨_, step_reset head, rfl, rfl, rfl, rfl⟩

end Sys2Proof.Machine
end

section
/-! The lanes of SR after a full answer (R40, R44). -/

namespace Sys2Proof.Machine

theorem wireBytes_getElem (w : Word) (j : Fin 4) : (wireBytes w)[j] = byteLane w ⟨3 - j.val, by omega⟩ := by
  match j with
  | 0 | 1 | 2 | 3 => rfl

/-- Settles O27: SR holds the four bytes in wire order, whose lanes count from the other end. -/
theorem wirePositionIsByteIndexReversed : Obligations.WirePositionIsByteIndexReversed := by
  intro s rest b0 b1 b2 b3 waiting pending head
  refine ⟨_, fullAnswerFillsShiftRegister s rest b0 b1 b2 b3 waiting pending head, fun j => ?_⟩
  simp only [← wireBytes_getElem, wireBytes_append]

end Sys2Proof.Machine
end

section
/-! The value of a sample (R62, R106 to R110): the extractor's closed form and range, and the words that encode a
value. -/

namespace Sys2Proof.Machine

theorem asr32_append (data : BitVec 24) (low : BitVec 8) : asr32 (data ++ low) 8 = data.signExtend 32 := by
  apply BitVec.eq_of_toInt_eq
  rw [asr32, BitVec.toInt_sshiftRight, BitVec.toInt_signExtend_of_le (by decide), BitVec.toInt_append,
    Int.shiftRight_eq_div_pow]
  have := low.isLt
  simp only [Nat.reduceBEq, Bool.false_eq_true, if_false]
  omega

theorem clearMarker_shift (w : Word) :
    (w &&& 0x7FFFFFFF#32) <<< 1 = w.extractLsb' 7 24 ++ (w.extractLsb' 0 7 ++ 0#1) := by
  rw [show 0x7FFFFFFF#32 = (BitVec.allOnes 31).setWidth 32 from rfl]
  apply BitVec.eq_of_getLsbD_eq
  intro i hi
  simp only [BitVec.getLsbD_shiftLeft, BitVec.getLsbD_and, BitVec.getLsbD_setWidth, BitVec.getLsbD_allOnes,
    BitVec.getLsbD_append, BitVec.getLsbD_extractLsb', BitVec.getLsbD_zero]
  by_cases h0 : i < 1
  · simp [h0, show i < 8 by omega]
  by_cases h8 : i < 8
  · simp [h0, h8, hi, show i - 1 < 32 by omega, show i - 1 < 31 by omega, show i - 1 < 7 by omega]
  · simp [h0, h8, hi, show 7 + (i - 8) = i - 1 by omega, show i - 1 < 32 by omega, show i - 1 < 31 by omega,
      show i - 8 < 24 by omega]

/-- The closed form of R107. -/
theorem extractSample_eq_signExtend (w : Word) : extractSample w = (w.extractLsb' 7 24).signExtend 32 := by
  rw [extractSample, clearMarker_shift, asr32_append]

theorem signExtend_upperByte (w : Word) :
    ((w.extractLsb' 7 24).signExtend 32).extractLsb' 24 8 = if w.getLsbD 30 then 0xFF#8 else 0x00#8 := by
  have sign : (w.extractLsb' 7 24).msb = w.getLsbD 30 := by simp [BitVec.msb_eq_getLsbD_last]
  rw [BitVec.signExtend_eq_append_extractLsb', BitVec.extractLsb'_cast, sign]
  exact BitVec.extractLsb'_append_eq_left

theorem exec_decodeRaw32_next (w : Word) (s : State) : ∃ t, exec (decodeRaw32 w) s = .next t := by
  by_cases pos : w.extractLsb' 24 8 = 0xC0#8
  · exact ⟨_, by rw [decodeRaw32_of_pos pos, exec_decPosovf]⟩
  by_cases neg : w.extractLsb' 24 8 = 0x3F#8
  · exact ⟨_, by rw [decodeRaw32_of_neg neg, exec_decNegovf]⟩
  · exact ⟨_, by rw [decodeRaw32_of_neither pos neg, exec_decNormal]⟩

theorem runDecode_of_exec {s t : State} (reading : s.state = .reading)
    (next : exec (decodeRaw32 s.sr) { s with raw := s.sr } = .next t) :
    runDecode s = .next { t with state := .done } := by
  rw [runDecode, if_pos reading, next]

/-- Settles O9: the wire bytes of SR decode to the case SR selects, which DECODE runs. -/
theorem decodeStepRunsSampleCase : Obligations.DecodeStepRunsSampleCase := by
  intro s rest i reading head decoded
  cases (decode_wireBytes rfl []).symm.trans decoded
  obtain ⟨t, next⟩ := exec_decodeRaw32_next s.sr { s with inputs := rest, raw := s.sr }
  exact ⟨t, next, (step_decode head).trans (runDecode_of_exec (s := { s with inputs := rest }) reading next)⟩

/-- Settles O31: the extractor is the sign extension, whose upper byte is eight copies of the sign. -/
theorem normalCaseClosedForm : Obligations.NormalCaseClosedForm := by
  intro m d sub s
  refine ⟨_, exec_decNormal m d sub s, extractSample_eq_signExtend s.sr, ?_⟩
  rw [extractSample_eq_signExtend, signExtend_upperByte]

theorem extractSample_range (w : Word) :
    -2 ^ 23 ≤ (extractSample w).toInt ∧ (extractSample w).toInt ≤ 2 ^ 23 - 1 := by
  rw [extractSample_eq_signExtend, BitVec.toInt_signExtend_of_le (by decide)]
  exact ⟨BitVec.le_toInt _, Int.le_sub_one_of_lt BitVec.toInt_lt⟩

theorem encSample_data (v : Int) (sub : BitVec 7) : (encSample v sub).extractLsb' 7 24 = BitVec.ofInt 24 v := by
  simp (disch := decide) only [encSample, BitVec.extractLsb'_append_eq_of_le, BitVec.extractLsb'_append_eq_of_add_le,
    Nat.reduceSub, BitVec.extractLsb'_eq_self]

theorem extractSample_encSample {v : Int} (low : -2 ^ 23 ≤ v) (high : v ≤ 2 ^ 23 - 1) (sub : BitVec 7) :
    (extractSample (encSample v sub)).toInt = v := by
  rw [extractSample_eq_signExtend, encSample_data, BitVec.toInt_signExtend_of_le (by decide), BitVec.toInt_ofInt]
  exact Int.bmod_eq_of_le (by omega) (by omega)

/-- The MSB byte is 0x80 to 0xBF for a value of at least 0, and 0x40 to 0x7F for a negative one. -/
theorem encSample_noFlag {v : Int} (low : -2 ^ 23 ≤ v) (high : v ≤ 2 ^ 23 - 1) (sub : BitVec 7) :
    ¬posFlag (encSample v sub) = true ∧ ¬negFlag (encSample v sub) = true := by
  have value : (encSample v sub).toNat =
      ((BitVec.ofBool (decide (0 ≤ v))).toNat * 2 ^ 24 + (v % 2 ^ 24).toNat) * 2 ^ 7 + sub.toNat := by
    rw [encSample, toNat_append_eq_mul_add, toNat_append_eq_mul_add, BitVec.toNat_ofInt]
    rfl
  obtain ⟨pos, neg, -⟩ := comparatorTestsWholeMsbByte (encSample v sub)
  have := sub.isLt
  rw [pos, neg, value]
  by_cases sign : 0 ≤ v
  · simp [sign]
    omega
  · simp [sign]
    omega

/-- Settles O32: the closed form bounds the result, and the word that encodes a value selects DEC_NORMAL and gives it
back. -/
theorem normalResultRange : Obligations.NormalResultRange := by
  refine ⟨extractSample_range, fun v low high => ?_, by decide, by decide⟩
  obtain ⟨notPos, notNeg⟩ := encSample_noFlag low high 0#7
  rw [posFlag_iff] at notPos
  rw [negFlag_iff] at notNeg
  exact ⟨encSample v 0#7, _, _, _, decodeRaw32_of_neither notPos notNeg, extractSample_encSample low high 0#7⟩

/-- Settles O33: the encoded word raises neither flag, so DECODE takes the extractor's value, which is the value
encoded. -/
theorem sampleRoundTrip : Obligations.SampleRoundTrip := by
  intro v sub s rest low high reading sample head
  obtain ⟨notPos, notNeg⟩ := encSample_noFlag low high sub
  rw [← sample] at notPos notNeg
  have next := (step_decode head).trans (runDecode_noFlag (s := { s with inputs := rest }) reading notPos notNeg)
  refine ⟨_, next, ?_, rfl, rfl⟩
  exact (congrArg (fun w => (extractSample w).toInt) sample).trans (extractSample_encSample low high sub)

end Sys2Proof.Machine
end

section
/-! The cycle's part of the state, which the host's accesses and dropped events leave alone, and what a step can do to
it: the inversion `step_effect` with those steps taken together. -/

namespace Sys2Proof.Machine

/-- The state without what belongs to the host: its request registers, START_ERR, the words returned to it, and the
events to come. -/
def State.cycleView (s : State) : State :=
  { s with startErr := false, addr := 0#7, cmd := 0#8, timeout := 0#16, inputs := [], hostReads := [] }

theorem stateInv_cycleView (s : State) : StateInv s.cycleView ↔ StateInv s := Iff.rfl

theorem lastIssuedInv_cycleView (s : State) : LastIssuedInv s.cycleView ↔ LastIssuedInv s := Iff.rfl

/-- The effects of a step on the cycle, with the event that drives each. -/
inductive CycleEffect (s t : State) : Prop where
  | kept (same : t.cycleView = s.cycleView)
      (noStart : ∀ e, s.inputs.head? = some e → acceptsStart s e = false ∧ e ≠ .reset)
  | started (e : Event) (head : s.inputs.head? = some e) (accepted : acceptsStart s e = true)
      (next : t = ({ s with inputs := s.inputs.tail } : State).beginCycle)
  | writeSucceeded (head : s.inputs.head? = some (.busWriteResp .success)) (sent : s.state = .commandSent)
      (next : t = { s with
        inputs := s.inputs.tail, wstat := .success, state := .awaitingConversion, pollWait := false,
        history := s.history ++ [.write s.reqAddr s.reqCmd .success],
        issued := s.issued ++ [.read4 s.reqAddr] })
  | writeFailed (code : BusStatus) (head : s.inputs.head? = some (.busWriteResp code)) (sent : s.state = .commandSent)
      (failed : code ≠ .success)
      (next : t = { s with
        inputs := s.inputs.tail, wstat := code, state := .error,
        history := s.history ++ [.write s.reqAddr s.reqCmd code] })
  | readSucceeded (b0 b1 b2 b3 : Byte) (head : s.inputs.head? = some (.busReadResp (.four b0 b1 b2 b3)))
      (pending : s.readPending = true)
      (next : t = { s with
        inputs := s.inputs.tail, sr := b0 ++ b1 ++ b2 ++ b3, state := .reading,
        history := s.history ++ [.read s.reqAddr [b0, b1, b2, b3]] })
  | readTimedOut (answer : ReadAnswer) (head : s.inputs.head? = some (.busReadResp answer))
      (pending : s.readPending = true) (short : answer.bytes.length < 4)
      (exceeded : s.reqTimeout.toNat < (s.tickcnt + 1#17).toNat)
      (next : t = { s with
        inputs := s.inputs.tail, tickcnt := s.tickcnt + 1#17, state := .timeout,
        history := s.history ++ [.read s.reqAddr answer.bytes] })
  | readToRetry (answer : ReadAnswer) (head : s.inputs.head? = some (.busReadResp answer))
      (pending : s.readPending = true) (short : answer.bytes.length < 4)
      (within : (s.tickcnt + 1#17).toNat ≤ s.reqTimeout.toNat)
      (next : t = { s with
        inputs := s.inputs.tail, tickcnt := s.tickcnt + 1#17, pollWait := true,
        history := s.history ++ [.read s.reqAddr answer.bytes] })
  | tickTaken (head : s.inputs.head? = some .tick) (polling : s.inPollWait = true)
      (next : t = { s with
        inputs := s.inputs.tail, pollWait := false, issued := s.issued ++ [.read4 s.reqAddr] })
  | decoded (result : Word) (ovf : Ovf) (turn : s.inputs.head? = some .decode ∨ s.inputs = [])
      (reading : s.state = .reading)
      (value : (result = Config.posSat ∧ ovf = .positive) ∨ (result = Config.negSat ∧ ovf = .negative) ∨
        (result = extractSample s.sr ∧ ovf = .none))
      (next : t = { s with inputs := s.inputs.tail, raw := s.sr, result := result, ovf := ovf, state := .done })
  | wasReset (head : s.inputs.head? = some .reset) (next : t = ({ s with inputs := s.inputs.tail } : State).applyReset)

theorem noStart_of_head {s : State} {e : Event} {rest : List Event} (head : s.inputs = e :: rest)
    (noStart : acceptsStart s e = false) (noReset : e ≠ .reset) :
    ∀ e', s.inputs.head? = some e' → acceptsStart s e' = false ∧ e' ≠ .reset := by
  rintro e' head'
  cases (congrArg List.head? head).symm.trans head'
  exact ⟨noStart, noReset⟩

/-- Every step that goes on has one of the effects above. -/
theorem step_cycleEffect {s t : State} (h : step s = .next t) : CycleEffect s t := by
  have tail {e : Event} {rest : List Event} (head : s.inputs = e :: rest) : rest = s.inputs.tail :=
    (congrArg List.tail head).symm
  cases step_effect h with
  | hostNothing _ _ _ _ head noStart next =>
    subst next
    exact .kept rfl (noStart_of_head head noStart nofun)
  | startRejected _ _ head _ busy next =>
    subst next
    exact .kept rfl (noStart_of_head head (by simp [acceptsStart, busy]) nofun)
  | addrWritten _ _ _ head next | cmdWritten _ _ _ head next | timeoutWritten _ _ _ head next
  | wordReturned _ _ _ _ head next | writeAnswerDropped _ _ head _ next | readAnswerDropped _ _ head _ next
  | tickDropped _ head _ next | decodeDropped _ head _ next =>
    subst next
    exact .kept rfl (noStart_of_head head rfl nofun)
  | startAccepted data _ head bit0 free next =>
    rw [tail head] at next
    exact .started _ (congrArg List.head? head) ((acceptsStart_iff s _).2 ⟨data, rfl, bit0, free⟩) next
  | writeSucceeded _ head sent next =>
    rw [tail head] at next
    exact .writeSucceeded (congrArg List.head? head) sent next
  | writeFailed code _ head sent failed next =>
    rw [tail head] at next
    exact .writeFailed code (congrArg List.head? head) sent failed next
  | readSucceeded b0 b1 b2 b3 _ head waiting pending next =>
    rw [tail head] at next
    exact .readSucceeded b0 b1 b2 b3 (congrArg List.head? head) (s.readPending_iff.2 ⟨waiting, pending⟩) next
  | readTimedOut answer _ head waiting pending short exceeded next =>
    rw [tail head] at next
    exact .readTimedOut answer (congrArg List.head? head) (s.readPending_iff.2 ⟨waiting, pending⟩) short exceeded next
  | readToRetry answer _ head waiting pending short within next =>
    rw [tail head] at next
    exact .readToRetry answer (congrArg List.head? head) (s.readPending_iff.2 ⟨waiting, pending⟩) short within next
  | tickTaken _ head waiting polling next =>
    rw [tail head] at next
    exact .tickTaken (congrArg List.head? head) (s.inPollWait_iff.2 ⟨waiting, polling⟩) next
  | decoded _ result ovf head reading value next =>
    rw [tail head] at next
    exact .decoded result ovf (.inl (congrArg List.head? head)) reading
      (value.imp And.right (Or.imp And.right fun neither => neither.2.2)) next
  | decodedUnprompted result ovf head reading value next =>
    refine .decoded result ovf (.inr head) reading
      (value.imp And.right (Or.imp And.right fun neither => neither.2.2)) (next.trans ?_)
    rw [head, List.tail_nil, ← head]
  | wasReset _ head next =>
    rw [tail head] at next
    exact .wasReset (congrArg List.head? head) next

/-- START_ERR is kept, cleared by RESET, or set by a START request while BUSY (R20, R118). -/
theorem step_startErr {s t : State} (h : step s = .next t) :
    t.startErr = s.startErr ∨ (t.startErr = false ∧ s.inputs.head? = some .reset) ∨
    (t.startErr = true ∧ ∃ data : Word, data.getLsbD 0 = true ∧ s.inputs.head? = some (.hostWr 0 4 data) ∧
      s.busy = true) := by
  cases step_effect h with
  | wasReset _ head next => exact .inr (.inl ⟨congrArg State.startErr next, congrArg List.head? head⟩)
  | startRejected data _ head bit0 busy next =>
    exact .inr (.inr ⟨congrArg State.startErr next, data, bit0, congrArg List.head? head, busy⟩)
  | hostNothing _ _ _ _ _ _ next | startAccepted _ _ _ _ _ next
  | addrWritten _ _ _ _ next | cmdWritten _ _ _ _ next | timeoutWritten _ _ _ _ next | wordReturned _ _ _ _ _ next
  | writeAnswerDropped _ _ _ _ next | writeSucceeded _ _ _ next | writeFailed _ _ _ _ _ next
  | readAnswerDropped _ _ _ _ next | readSucceeded _ _ _ _ _ _ _ _ next | readTimedOut _ _ _ _ _ _ _ next
  | readToRetry _ _ _ _ _ _ _ next
  | tickDropped _ _ _ next | tickTaken _ _ _ _ next | decodeDropped _ _ _ next | decoded _ _ _ _ _ _ next
  | decodedUnprompted _ _ _ _ _ next =>
    subst next
    exact .inl rfl

/-- Settles O43: the three cases of `step_startErr`. -/
theorem startErrIsSticky : Obligations.StartErrIsSticky := by
  intro s t h
  obtain same | ⟨cleared, reset⟩ | ⟨set, rejected⟩ := step_startErr h
  · exact ⟨fun err _ => same.trans err, fun clear err => absurd (clear.symm.trans (same.symm.trans err)) (by decide)⟩
  · exact ⟨fun _ noReset => absurd reset noReset, fun _ err => absurd (cleared.symm.trans err) (by decide)⟩
  · exact ⟨fun _ _ => set, fun _ _ => rejected⟩

end Sys2Proof.Machine
end

section
/-! Which steps change what (R19 to R30, R33, R121): each element of the cycle by the effects that write it. -/

namespace Sys2Proof.Machine

/-- Settles O39: the effects that change STATE, each with its event. -/
theorem sequencerMovesOnlyAlongTransitions : Obligations.SequencerMovesOnlyAlongTransitions := by
  intro s t h changed
  cases step_cycleEffect h with
  | kept same => exact absurd (congrArg State.state same :) changed
  | started e head accepted next =>
    obtain ⟨_, -, -, free⟩ := (acceptsStart_iff s e).1 accepted
    exact .inl ⟨e, head, accepted, free, (congrArg State.state next :)⟩
  | writeSucceeded head sent next => exact .inr (.inl ⟨head, sent, (congrArg State.state next :)⟩)
  | writeFailed code head sent failed next =>
    exact .inr (.inr (.inl ⟨code, head, failed, sent, (congrArg State.state next :)⟩))
  | readSucceeded b0 b1 b2 b3 head pending next =>
    obtain ⟨waiting, pending⟩ := s.readPending_iff.1 pending
    exact .inr (.inr (.inr (.inl ⟨_, head, waiting, pending, .inl ⟨rfl, (congrArg State.state next :)⟩⟩)))
  | readTimedOut answer head pending short exceeded next =>
    obtain ⟨waiting, pending⟩ := s.readPending_iff.1 pending
    exact .inr (.inr (.inr (.inl ⟨answer, head, waiting, pending, .inr ⟨short, (congrArg State.state next :)⟩⟩)))
  | readToRetry _ _ _ _ _ next | tickTaken _ _ next => exact absurd (congrArg State.state next :) changed
  | decoded _ _ turn reading _ next =>
    exact .inr (.inr (.inr (.inr (.inl ⟨turn, reading, (congrArg State.state next :)⟩))))
  | wasReset head next => exact .inr (.inr (.inr (.inr (.inr ⟨head, (congrArg State.state next :)⟩))))

/-- Settles O40: no effect but DECODE and RESET writes the three. -/
theorem onlyDecodeOrResetWritesResults : Obligations.OnlyDecodeOrResetWritesResults := by
  intro s t h noReset noDecode
  cases step_cycleEffect h with
  | kept same =>
    exact ⟨(congrArg State.raw same :), (congrArg State.result same :), (congrArg State.ovf same :)⟩
  | started _ _ _ next | writeSucceeded _ _ next | writeFailed _ _ _ _ next | readSucceeded _ _ _ _ _ _ next
  | readTimedOut _ _ _ _ _ next | readToRetry _ _ _ _ _ next | tickTaken _ _ next =>
    subst next
    exact ⟨rfl, rfl, rfl⟩
  | decoded _ _ turn reading => exact absurd ⟨reading, turn⟩ noDecode
  | wasReset head => exact absurd head noReset

theorem step_accepted {s t : State} (h : step s = .next t) {e : Event} (head : s.inputs.head? = some e)
    (accepted : acceptsStart s e = true) : t = ({ s with inputs := s.inputs.tail } : State).beginCycle := by
  obtain ⟨data, rfl, bit0, free⟩ := (acceptsStart_iff s e).1 accepted
  have cons : s.inputs = .hostWr 0 4 data :: s.inputs.tail := List.eq_cons_of_mem_head? head
  exact Host.Outcome.next.inj (h.symm.trans (step_startAccepted cons bit0 free))

/-- Settles O41: an accepted START begins a cycle with the request registers; no other effect but RESET writes the
latches. -/
theorem onlyStartOrResetLoadsRequest : Obligations.OnlyStartOrResetLoadsRequest := by
  intro s t h
  refine ⟨fun e head accepted => ?start, fun noStart => ?other⟩
  case start =>
    obtain rfl := step_accepted h head accepted
    exact ⟨rfl, rfl, rfl⟩
  case other =>
    cases step_cycleEffect h with
    | kept same =>
      exact ⟨(congrArg State.reqAddr same :), (congrArg State.reqCmd same :), (congrArg State.reqTimeout same :)⟩
    | started e head accepted => exact absurd accepted (Bool.eq_false_iff.1 (noStart e head).1)
    | writeSucceeded _ _ next | writeFailed _ _ _ _ next | readSucceeded _ _ _ _ _ _ next
    | readTimedOut _ _ _ _ _ next | readToRetry _ _ _ _ _ next | tickTaken _ _ next | decoded _ _ _ _ _ next =>
      subst next
      exact ⟨rfl, rfl, rfl⟩
    | wasReset head => exact absurd rfl (noStart _ head).2

/-- Settles O44: START, RESET and a failed attempt by the next state of each; the other effects keep the count. -/
theorem tickcntCountsFailedAttempts : Obligations.TickcntCountsFailedAttempts := by
  intro s t h
  refine ⟨fun e head accepted => ?start, fun head => ?reset, fun answer head waiting pending short => ?failed,
    fun noStart noFailure => ?other⟩
  case start => exact (congrArg State.tickcnt (step_accepted h head accepted) :)
  case reset =>
    obtain ⟨rest, cons⟩ := List.head?_eq_some_iff.1 head
    obtain rfl := Host.Outcome.next.inj (h.symm.trans (step_reset cons))
    rfl
  case failed =>
    obtain ⟨rest, cons⟩ := List.head?_eq_some_iff.1 head
    rw [shortAnswerCountsAFailedAttempt s rest answer waiting pending short cons, Host.Outcome.next.injEq] at h
    subst h
    split <;> rfl
  case other =>
    cases step_cycleEffect h with
    | kept same => exact (congrArg State.tickcnt same :)
    | started e head accepted => exact absurd accepted (Bool.eq_false_iff.1 (noStart e head).1)
    | readTimedOut answer head pending short | readToRetry answer head pending short =>
      obtain ⟨waiting, pending⟩ := s.readPending_iff.1 pending
      exact absurd (noFailure answer head) (by simp [waiting, pending, short.ne])
    | writeSucceeded _ _ next | writeFailed _ _ _ _ next | readSucceeded _ _ _ _ _ _ next
    | tickTaken _ _ next | decoded _ _ _ _ _ next =>
      subst next
      rfl
    | wasReset head => exact absurd rfl (noStart _ head).2

theorem State.busy_eq_false_of_cycleEnd {s : State} (terminal : s.cycleEnd = true) : s.busy = false := by
  obtain ⟨-, free, -⟩ | ⟨-, -, running⟩ | ⟨-, free, -⟩ := s.state.inFlight_or_terminal
  · exact free
  · exact absurd terminal (Bool.eq_false_iff.1 running)
  · exact free

/-- Settles O45: a terminal state is not BUSY, so of the effects only START, RESET and those that keep the cycle's part
are possible. -/
theorem terminalStatesAreStable : Obligations.TerminalStatesAreStable := by
  intro s t h terminal
  have free := State.busy_eq_false_of_cycleEnd terminal
  obtain ⟨notSent, notWaiting, notReading⟩ := s.busy_eq_false_iff.1 free
  cases step_cycleEffect h with
  | kept same noStart =>
    refine .inr ⟨(congrArg State.state same :), (congrArg State.pollWait same :), (congrArg State.wstat same :),
      (congrArg State.tickcnt same :), (congrArg State.sr same :), (congrArg State.raw same :),
      (congrArg State.result same :), (congrArg State.ovf same :), ?_⟩
    obtain kept | ⟨-, reset⟩ | ⟨-, _, -, -, busy⟩ := step_startErr h
    · exact kept
    · exact absurd rfl (noStart _ reset).2
    · exact absurd busy (Bool.eq_false_iff.1 free)
  | started e head accepted => exact .inl ⟨e, head, .inl accepted⟩
  | writeSucceeded _ sent | writeFailed _ _ sent => exact absurd sent notSent
  | readSucceeded _ _ _ _ _ pending | readTimedOut _ _ pending | readToRetry _ _ pending =>
    exact absurd (s.readPending_iff.1 pending).1 notWaiting
  | tickTaken _ polling => exact absurd (s.inPollWait_iff.1 polling).1 notWaiting
  | decoded _ _ _ reading => exact absurd reading notReading
  | wasReset head => exact .inl ⟨_, head, .inr rfl⟩

/-- While BUSY a host access is no START that is accepted, and so keeps the cycle's part. -/
theorem step_hostAccess_keeps_cycleView {s t : State} {e : Event} (h : step s = .next t)
    (head : s.inputs.head? = some e) (busy : s.busy = true)
    (access : (∃ off n data, e = .hostWr off n data) ∨ (∃ off n, e = .hostRd off n)) :
    t.cycleView = s.cycleView := by
  cases step_cycleEffect h with
  | kept same => exact same
  | started e' head' accepted =>
    obtain ⟨_, -, -, free⟩ := (acceptsStart_iff s e').1 accepted
    exact absurd busy (Bool.eq_false_iff.1 free)
  | writeSucceeded head' | writeFailed _ head' | readSucceeded _ _ _ _ head' | readTimedOut _ head'
  | readToRetry _ head' | tickTaken head' | wasReset head' =>
    cases head.symm.trans head'
    simp at access
  | decoded _ _ turn =>
    obtain head' | noEvent := turn
    · cases head.symm.trans head'
      simp at access
    · simp [noEvent] at head

/-- Settles O47: every element named is one of the cycle's part, which the access keeps. -/
theorem hostCannotDisturbCycle : Obligations.HostCannotDisturbCycle := by
  intro s t e h head busy access
  have same := step_hostAccess_keeps_cycleView h head busy access
  exact ⟨(congrArg State.state same :), (congrArg State.pollWait same :), (congrArg State.wstat same :),
    (congrArg State.ovf same :), (congrArg State.reqAddr same :), (congrArg State.reqCmd same :),
    (congrArg State.reqTimeout same :), (congrArg State.sr same :), (congrArg State.raw same :),
    (congrArg State.result same :), (congrArg State.tickcnt same :), (congrArg State.outstanding same :),
    (congrArg State.issued same :), (congrArg State.history same :)⟩

end Sys2Proof.Machine
end

section
/-! The requests issued (R32, R45, R85, R95): which effects issue one, and that it is the outstanding one. -/

namespace Sys2Proof.Machine

/-- Settles O48: an accepted START issues the command write; every other effect issues nothing or a read attempt. -/
theorem oneCommandWritePerStart : Obligations.OneCommandWritePerStart := by
  intro s t h
  refine ⟨fun e head accepted => ?start, fun noStart => ?other⟩
  case start =>
    obtain rfl := step_accepted h head accepted
    exact ⟨rfl, State.outstanding_of_commandSent rfl⟩
  case other =>
    cases step_cycleEffect h with
    | kept same => exact (congrArg State.writesIssued same :)
    | started e head accepted => exact absurd accepted (Bool.eq_false_iff.1 (noStart e head))
    | writeSucceeded _ _ next | tickTaken _ _ next =>
      subst next
      simp [State.writesIssued]
    | writeFailed _ _ _ _ next | readSucceeded _ _ _ _ _ _ next | readTimedOut _ _ _ _ _ next
    | readToRetry _ _ _ _ _ next | decoded _ _ _ _ _ next | wasReset _ next =>
      subst next
      rfl

/-- Settles O49: of the effects, the answer 0 in CommandSent and the tick of the poll wait issue a read attempt. -/
theorem readAttemptsFollowSuccessOrTick : Obligations.ReadAttemptsFollowSuccessOrTick := by
  intro s t h changed
  cases step_cycleEffect h with
  | writeSucceeded head sent next =>
    subst next
    exact ⟨by simp [State.readsIssued], State.outstanding_of_readPending rfl, .inl ⟨sent, head⟩⟩
  | tickTaken head polling next =>
    obtain ⟨waiting, pollWait⟩ := s.inPollWait_iff.1 polling
    subst next
    exact ⟨by simp [State.readsIssued], State.outstanding_of_readPending ((State.readPending_iff _).2 ⟨waiting, rfl⟩),
      .inr ⟨waiting, pollWait, head⟩⟩
  | kept same => exact absurd (congrArg State.readsIssued same :) changed
  | started _ _ _ next =>
    subst next
    simp [State.readsIssued] at changed
  | writeFailed _ _ _ _ next | readSucceeded _ _ _ _ _ _ next | readTimedOut _ _ _ _ _ next
  | readToRetry _ _ _ _ _ next | decoded _ _ _ _ _ next | wasReset _ next =>
    subst next
    exact absurd rfl changed

/-- A step's balance from the requests it issues and the transactions it records. -/
theorem requestBalance {s t : State} (new retired : Nat) (issued : t.issued.length = s.issued.length + new)
    (recorded : t.history.length = s.history.length + retired)
    (openRequests : new + s.openRequests = retired + t.openRequests) :
    t.issued.length + s.history.length + s.openRequests =
      s.issued.length + t.history.length + t.openRequests := by
  omega

/-- Settles O50: START opens a request, the tick of the poll wait too, the answer 0 retires one and opens one, and the
other answers retire one. -/
theorem stepConservesRequestBalance : Obligations.StepConservesRequestBalance := by
  intro s t h noReset
  cases step_cycleEffect h with
  | kept same =>
    exact requestBalance 0 0 (congrArg (fun u => u.issued.length) same) (congrArg (fun u => u.history.length) same)
      (congrArg (fun u => 0 + u.openRequests) same.symm)
  | started e head accepted next =>
    obtain ⟨_, -, -, free⟩ := (acceptsStart_iff s e).1 accepted
    obtain ⟨notSent, notWaiting, -⟩ := s.busy_eq_false_iff.1 free
    have before : s.openRequests = 0 := by
      simp [State.openRequests, State.outstanding_of_not_onBus notSent notWaiting]
    subst next
    exact requestBalance 1 0 (by simp) rfl (by rw [before]; rfl)
  | writeSucceeded _ sent next =>
    subst next
    exact requestBalance 1 1 (by simp) (by simp) (by simp [State.openRequests, State.outstanding, sent])
  | writeFailed _ _ sent _ next =>
    subst next
    exact requestBalance 0 1 rfl (by simp) (by simp [State.openRequests, State.outstanding, sent])
  | readSucceeded _ _ _ _ _ pending next | readTimedOut _ _ pending _ _ next | readToRetry _ _ pending _ _ next =>
    obtain ⟨waiting, noPollWait⟩ := s.readPending_iff.1 pending
    subst next
    exact requestBalance 0 1 rfl (by simp) (by simp [State.openRequests, State.outstanding, waiting, noPollWait])
  | tickTaken _ polling next =>
    obtain ⟨waiting, pollWait⟩ := s.inPollWait_iff.1 polling
    subst next
    exact requestBalance 1 0 (by simp) rfl (by simp [State.openRequests, State.outstanding, waiting, pollWait])
  | decoded _ _ _ reading _ next =>
    subst next
    exact requestBalance 0 0 rfl rfl (by simp [State.openRequests, State.outstanding, reading])
  | wasReset head => exact absurd head noReset

theorem lastIssuedInv_of_none {s : State} (h : s.outstanding = none) : LastIssuedInv s := by
  intro some
  simp [h] at some

theorem lastIssuedInv_of_issued {s : State} {l : List BusRequest} {r : BusRequest} (h : s.outstanding = some r)
    (last : s.issued = l ++ [r]) : LastIssuedInv s := by
  intro _
  rw [h, last, List.getLast?_concat]

/-- Settles O51: an effect that leaves a request outstanding has just issued it, or keeps the cycle's part. -/
theorem stepKeepsLastIssuedOutstanding : Obligations.StepKeepsLastIssuedOutstanding := by
  intro s t inv h
  cases step_cycleEffect h with
  | kept same => rwa [← lastIssuedInv_cycleView, same]
  | started _ _ _ next =>
    subst next
    exact lastIssuedInv_of_issued (State.outstanding_of_commandSent rfl) rfl
  | writeSucceeded _ _ next =>
    subst next
    exact lastIssuedInv_of_issued (State.outstanding_of_readPending rfl) rfl
  | tickTaken _ polling next =>
    obtain ⟨waiting, -⟩ := s.inPollWait_iff.1 polling
    subst next
    exact lastIssuedInv_of_issued (State.outstanding_of_readPending ((State.readPending_iff _).2 ⟨waiting, rfl⟩)) rfl
  | readToRetry _ _ pending _ _ next =>
    obtain ⟨waiting, -⟩ := s.readPending_iff.1 pending
    subst next
    exact lastIssuedInv_of_none (State.outstanding_of_inPollWait ((State.inPollWait_iff _).2 ⟨waiting, rfl⟩))
  | writeFailed _ _ _ _ next | readSucceeded _ _ _ _ _ _ next | readTimedOut _ _ _ _ _ next
  | decoded _ _ _ _ _ next | wasReset _ next =>
    subst next
    exact lastIssuedInv_of_none (State.outstanding_of_not_onBus nofun nofun)

end Sys2Proof.Machine
end

section
/-! The invariants of R34: they hold at reset, every effect on the cycle keeps them, and so does every run. -/

namespace Sys2Proof.Machine

theorem stateInv_reset : StateInv State.reset :=
  ⟨nofun, by decide, by decide, by decide, by decide, by decide⟩

/-- Settles O52: the values after reset, where no request is outstanding. -/
theorem resetSatisfiesInvariants : Obligations.ResetSatisfiesInvariants :=
  ⟨stateInv_reset, lastIssuedInv_of_none rfl⟩

/-- Settles O53: the invariants are about the cycle's part, and each effect on it keeps the six. That the write answer
finds TICKCNT = 0 and a read answer WSTAT = 0 is invariants (5) and (4) before the step. -/
theorem stepKeepsInvariants : Obligations.StepKeepsInvariants := by
  intro s t inv h
  have ⟨pollWait, bound, timeout, wstat, zero, result⟩ := inv
  cases step_cycleEffect h with
  | kept same => rwa [← stateInv_cycleView, same, stateInv_cycleView]
  | started _ _ _ next =>
    subst next
    exact ⟨nofun, Nat.zero_le _, ⟨nofun, fun _ => Nat.zero_le _⟩, ⟨nofun, by simp⟩, fun _ => rfl, result⟩
  | writeSucceeded _ sent next =>
    have none : s.tickcnt = 0#17 := zero (.inl sent)
    subst next
    refine ⟨nofun, bound, ⟨nofun, fun _ => ?_⟩, ⟨nofun, fun _ => rfl⟩, by simp, result⟩
    simp [none]
  | writeFailed code _ sent failed next =>
    have none : s.tickcnt = 0#17 := zero (.inl sent)
    subst next
    refine ⟨fun wait => absurd (sent.symm.trans (pollWait wait)) nofun, bound, ⟨nofun, fun _ => ?_⟩,
      ⟨fun _ => failed, by simp⟩, fun _ => none, result⟩
    simp [none]
  | readSucceeded _ _ _ _ _ pending next =>
    obtain ⟨waiting, noPollWait⟩ := s.readPending_iff.1 pending
    have success : s.wstat = .success := wstat.2 (.inl waiting)
    have within := timeout.2 (by simp [waiting])
    subst next
    exact ⟨fun wait => absurd (noPollWait.symm.trans wait) nofun, bound, ⟨nofun, fun _ => within⟩,
      ⟨nofun, fun _ => success⟩, by simp, result⟩
  | readTimedOut _ _ pending _ exceeded next =>
    obtain ⟨waiting, noPollWait⟩ := s.readPending_iff.1 pending
    have success : s.wstat = .success := wstat.2 (.inl waiting)
    have within := timeout.2 (by simp [waiting])
    have count := tickcnt_succ_toNat bound
    have last : (s.tickcnt + 1#17).toNat = s.reqTimeout.toNat + 1 := by omega
    subst next
    exact ⟨fun wait => absurd (noPollWait.symm.trans wait) nofun, last.le, ⟨fun _ => last, by simp⟩,
      ⟨nofun, fun _ => success⟩, by simp, result⟩
  | readToRetry _ _ pending _ within next =>
    obtain ⟨waiting, -⟩ := s.readPending_iff.1 pending
    subst next
    exact ⟨fun _ => waiting, Nat.le_succ_of_le within, ⟨by simp [waiting], fun _ => within⟩, wstat,
      by simp [waiting], result⟩
  | tickTaken _ polling next =>
    subst next
    exact ⟨nofun, bound, timeout, wstat, zero, result⟩
  | decoded _ _ _ reading value next =>
    have success : s.wstat = .success := wstat.2 (.inr (.inl reading))
    have within := timeout.2 (by simp [reading])
    subst next
    refine ⟨fun wait => absurd (reading.symm.trans (pollWait wait)) nofun, bound, ⟨nofun, fun _ => within⟩,
      ⟨nofun, fun _ => success⟩, by simp, ?_⟩
    obtain ⟨rfl, rfl⟩ | ⟨rfl, rfl⟩ | ⟨rfl, rfl⟩ := value
    · exact ⟨fun _ => rfl, nofun, nofun⟩
    · exact ⟨nofun, fun _ => rfl, nofun⟩
    · exact ⟨nofun, nofun, fun _ => extractSample_range s.sr⟩
  | wasReset _ next =>
    subst next
    exact stateInv_reset

theorem reachable_invariants {s : State} (h : Reachable s) : StateInv s ∧ LastIssuedInv s := by
  induction h with
  | init inputs => exact resetSatisfiesInvariants
  | step _ next ih => exact ⟨stepKeepsInvariants _ _ ih.1 next, stepKeepsLastIssuedOutstanding _ _ ih.2 next⟩
  | environment more _ ih => exact ih

/-- Settles O54: the invariants hold at reset and every step keeps them; the second bounds TICKCNT by the greatest
budget plus 1. -/
theorem reachableStatesSatisfyInvariants : Obligations.ReachableStatesSatisfyInvariants := by
  intro s reachable
  have ⟨inv, last⟩ := reachable_invariants reachable
  have ⟨_, bound, _⟩ := inv
  have := s.reqTimeout.isLt
  exact ⟨inv, last, by omega⟩

end Sys2Proof.Machine
end

section
/-! Several events in one clock (R119): a run through a list of events, and what follows from the order. -/

namespace Sys2Proof.Machine

theorem takeEvents_next {e : Event} {l : List Event} {s t : State} (h : takeEvent e s = .next t) :
    takeEvents (e :: l) s = takeEvents l t := by
  rw [takeEvents, h]

theorem core_run_fault {s : State} {f : Fault} (n : Nat) (h : step s = .fault f) :
    Sys2Proof.core.run (n + 1) s = .fault f := by
  have stop : Sys2Proof.core.step s = .fault f := h
  simp only [Host.Core.run, stop]

theorem core_run_refused {s : State} {r : Refusal} (n : Nat) (h : step s = .refused r) :
    Sys2Proof.core.run (n + 1) s = .refused r := by
  have stop : Sys2Proof.core.step s = .refused r := h
  simp only [Host.Core.run, stop]

/-- A run through a list of events takes them one by one, whatever events stand after them. -/
theorem core_run_events (l : List Event) (s : State) :
    Sys2Proof.core.run l.length { s with inputs := l ++ s.inputs } = takeEvents l s := by
  induction l generalizing s with
  | nil => rfl
  | cons e l ih =>
    have taken : step { s with inputs := e :: (l ++ s.inputs) } = takeEvent e { s with inputs := l ++ s.inputs } := rfl
    rw [takeEvent_inputs] at taken
    cases h : takeEvent e s with
    | next t =>
      rw [h, ← takeEvent_keeps_inputs h] at taken
      rw [takeEvents_next h, ← ih t, ← takeEvent_keeps_inputs h]
      exact core_run_succ l.length taken
    | fault f =>
      rw [h] at taken
      rw [takeEvents, h]
      exact core_run_fault l.length taken
    | refused r =>
      rw [h] at taken
      rw [takeEvents, h]
      exact core_run_refused l.length taken

/-- Settles O57: each shape of clock is a list of events, and a run takes them one by one (`core_run_events`). -/
theorem clockEqualsSequentialEvents : Obligations.ClockEqualsSequentialEvents := by
  refine ⟨fun _ => rfl, fun _ => rfl, rfl, fun _ _ _ => rfl, fun _ _ => rfl, fun s => ?_⟩
  have run (l : List Event) := (core_run_events l s).symm
  exact ⟨fun c => (run c.events).symm, fun _ _ _ => run [.reset], fun k h => run [k.event, .tick, h.event],
    fun k h => run [k.event, h.event], fun k => run [k.event, .tick], fun h => run [.tick, h.event],
    fun k => run [k.event], run [.tick], fun h => run [h.event], run []⟩

/-- A START in the clock of an event after which the block is not BUSY is accepted, with a tick before it or not. -/
theorem clockStep_start {k : ControllerInput} {s u : State} (taken : takeEvent k.event s = .next u)
    (free : u.busy = false) {data : Word} (bit0 : data.getLsbD 0 = true) (tick : Bool) :
    clockStep ⟨false, some k, tick, some (.write 0 4 data)⟩ s = .next u.beginCycle := by
  have start : takeEvents [.hostWr 0 4 data] u = .next u.beginCycle := by
    rw [takeEvents_singleton, takeEvent_start bit0, State.requestStart_notBusy free]
  have noPollWait : u.inPollWait = false := u.inPollWait_eq_false_iff.2 (.inl (u.busy_eq_false_iff.1 free).2.1)
  have discarded : takeEvent .tick u = .next u := congrArg Host.Outcome.next (takeTick_notInPollWait noPollWait)
  cases tick with
  | false => exact (takeEvents_next taken).trans start
  | true => exact (takeEvents_next taken).trans ((takeEvents_next discarded).trans start)

/-- Settles O58: RESET is the clock's only event; the tick after a failure within the budget finds the poll wait; and a
START after the end of a cycle is accepted (`clockStep_start`). -/
theorem clockOrderConsequences : Obligations.ClockOrderConsequences := by
  intro s
  refine ⟨fun _ _ _ => clockStep_of_reset rfl s, fun answer waiting pending short within => ?retry,
    fun data tick bit0 => ⟨fun code sent failed => ?error, fun answer waiting pending short exceeded => ?timeout,
      fun reading => ?done⟩⟩
  case retry =>
    have failure := takeReadAnswer_toRetry (s.readPending_iff.2 ⟨waiting, pending⟩) short within
    have polling : (takeReadAnswer answer s).inPollWait = true := by
      rw [failure]
      exact (State.inPollWait_iff _).2 ⟨waiting, rfl⟩
    have retried := takeTick_inPollWait polling
    refine ⟨takeTick (takeReadAnswer answer s), rfl, ?_, ?_⟩
    · rw [retried, failure]
      exact State.outstanding_of_readPending ((State.readPending_iff _).2 ⟨waiting, rfl⟩)
    · rw [retried, failure]
  case error =>
    have ended : takeEvent (.busWriteResp code) s = .next _ :=
      congrArg Host.Outcome.next (takeWriteAnswer_failure sent failed)
    exact ⟨_, clockStep_start (k := .writeResp code) ended rfl bit0 tick, rfl, rfl, rfl, rfl⟩
  case timeout =>
    have ended : takeEvent (.busReadResp answer) s = .next _ :=
      congrArg Host.Outcome.next (takeReadAnswer_timedOut (s.readPending_iff.2 ⟨waiting, pending⟩) short exceeded)
    exact ⟨_, clockStep_start (k := .readResp answer) ended rfl bit0 tick, rfl, rfl, rfl, rfl, rfl⟩
  case done =>
    obtain ⟨result, ovf, ended, -⟩ := runDecode_reading reading
    exact ⟨_, clockStep_start (k := .decode) ended rfl bit0 tick, rfl, rfl, rfl, rfl, rfl⟩

end Sys2Proof.Machine
end

section
/-! Host programs (R67, R68): the line that makes its access, the loop of WAITEND, and the guard of GETSAMPLE. -/

namespace Sys2Proof.Machine

theorem hostTurn_access {op : HostOp} {s t : State} (makes : op.makesAccess s.lastStatus = true)
    (next : exec op.instr s = .next t) (rest : List HostOp) :
    hostTurn (op :: rest) s = .next (op.continueWith t.lastStatus rest, t) := by
  rw [hostTurn, if_pos makes, takeEvent_hostOp, next]

theorem waitEndAgain_statusWord (s : State) : waitEndAgain s.statusWord = !s.cycleEnd := by
  rw [waitEndAgain, statusWord_state]
  cases h : s.state <;> simp only [State.cycleEnd, h] <;> rfl

theorem cycleEnd_eq_not (s : State) : (!s.cycleEnd) = (s.state == .idle || s.busy) := by
  cases h : s.state <;> simp only [State.cycleEnd, State.busy, h] <;> rfl

theorem hostTurn_waitEnd (rest : List HostOp) (s : State) :
    hostTurn (.readStatusUntilEnd :: rest) s =
      .next (if s.cycleEnd then rest else .readStatusUntilEnd :: rest, s.returnToHost .status) := by
  rw [hostTurn_access (op := .readStatusUntilEnd) rfl (exec_readInstr .status s),
    State.lastStatus_returnToHost_status, HostOp.continueWith, waitEndAgain_statusWord]
  cases s.cycleEnd <;> rfl

theorem hostTurn_readResult {s : State} (done : s.lastStatus.extractLsb' 0 3 = 4#3) (rest : List HostOp) :
    hostTurn (.readResultIfDone :: rest) s = .next (rest, s.returnToHost .result) :=
  hostTurn_access (op := .readResultIfDone) (beq_iff_eq.2 done) (exec_readInstr .result s) rest

theorem hostTurn_skipResult {s : State} (notDone : s.lastStatus.extractLsb' 0 3 ≠ 4#3) (rest : List HostOp) :
    hostTurn (.readResultIfDone :: rest) s = .next (rest, s) :=
  if_neg (mt beq_iff_eq.1 notDone)

theorem seqCode_eq_four_iff (q : SeqState) : seqCode q = 4#3 ↔ q = .done := by
  cases q <;> decide

/-- Settles O59: a line's event runs its instruction (`takeEvent_hostOp`), and the two lines with control go by the
STATE code of the STATUS word. -/
theorem hostProgramLines : Obligations.HostProgramLines := by
  refine ⟨fun op rest s head => ?line, fun reg imm rest s => ⟨?write, ?read⟩, fun s => ?again, fun rest s => ?waitEnd,
    fun rest s => ⟨fun done => ?readable, fun notDone => hostTurn_skipResult notDone rest⟩,
    fun s terminal => ?getSample, rfl, rfl, fun _ _ _ => rfl, rfl⟩
  case line => rw [step_event head, takeEvent_hostOp]
  case write =>
    obtain ⟨t, next⟩ := exec_hostAccess_next true reg imm s
    exact ⟨t, next, hostTurn_access (op := .wr reg imm) rfl next rest⟩
  case read => exact ⟨_, exec_readInstr reg s, hostTurn_access (op := .rd reg) rfl (exec_readInstr reg s) rest⟩
  case again => rw [waitEndAgain_statusWord, cycleEnd_eq_not]
  case waitEnd =>
    exact ⟨_, exec_readInstr .status s, State.lastStatus_returnToHost_status s, hostTurn_waitEnd rest s⟩
  case readable => exact ⟨_, exec_readInstr .result s, hostTurn_readResult done rest⟩
  case getSample =>
    have first : hostTurn PseudoOp.getSample.expand s = .next ([.readResultIfDone], s.returnToHost .status) :=
      (hostTurn_waitEnd [.readResultIfDone] s).trans (by rw [if_pos terminal])
    have code : (s.returnToHost .status).lastStatus.extractLsb' 0 3 = seqCode s.state := by
      rw [State.lastStatus_returnToHost_status, statusWord_state]
    by_cases done : s.state = .done
    · refine ⟨_, _, first, hostTurn_readResult (code.trans ((seqCode_eq_four_iff _).2 done)) [], ?_⟩
      simp [done, State.hostValue]
    · refine ⟨_, _, first, hostTurn_skipResult (fun h => done ((seqCode_eq_four_iff _).1 (code.symm.trans h))) [], ?_⟩
      simp [done, State.hostValue]

end Sys2Proof.Machine
end

section
/-! What a step does not look at: an outcome with part of its state hidden, and the command byte (R54, R56). -/

namespace Sys2Proof.Machine

/-- An outcome whose next state is seen through `f`. -/
def mapNext (f : State → State) : Host.Outcome State Fault Refusal → Host.Outcome State Fault Refusal
  | .next s => .next (f s)
  | .fault r => .fault r
  | .refused r => .refused r

theorem mapNext_eq_next {f : State → State} {x y : Host.Outcome State Fault Refusal} {s : State}
    (h : mapNext f x = mapNext f y) (hx : x = .next s) : ∃ t, y = .next t ∧ f s = f t := by
  subst hx
  cases y with
  | next t => exact ⟨t, rfl, Host.Outcome.next.inj h⟩
  | fault r => cases h
  | refused r => cases h

theorem mapNext_eq_fault {f : State → State} {x y : Host.Outcome State Fault Refusal} {r : Fault}
    (h : mapNext f x = mapNext f y) (hx : x = .fault r) : y = .fault r := by
  subst hx
  cases y with
  | next t => cases h
  | fault r' => exact h.symm
  | refused r' => cases h

theorem mapNext_eq_refused {f : State → State} {x y : Host.Outcome State Fault Refusal} {r : Refusal}
    (h : mapNext f x = mapNext f y) (hx : x = .refused r) : y = .refused r := by
  subst hx
  cases y with
  | next t => cases h
  | fault r' => cases h
  | refused r' => exact h.symm

/-! ## Hiding the command byte -/

@[simp] theorem hideCommand_request_idem :
    BusRequest.hideCommand ∘ BusRequest.hideCommand = BusRequest.hideCommand := by
  funext r
  cases r <;> rfl

@[simp] theorem hideCommand_record_idem : BusRecord.hideCommand ∘ BusRecord.hideCommand = BusRecord.hideCommand := by
  funext r
  cases r <;> rfl

@[simp] theorem hideCommand_hostRead_idem : HostRead.hideCommand ∘ HostRead.hideCommand = HostRead.hideCommand := by
  funext r
  by_cases h : r.reg = .cmd <;> simp [HostRead.hideCommand, h]

@[simp] theorem State.hideCommand_hideCommand (s : State) : s.hideCommand.hideCommand = s.hideCommand := by
  simp [State.hideCommand]

theorem hideCommand_requestStart (s : State) :
    s.hideCommand.requestStart.hideCommand = s.requestStart.hideCommand := by
  cases h : s.busy with
  | false =>
    rw [State.requestStart_notBusy h, State.requestStart_notBusy (s := s.hideCommand) h]
    simp [State.hideCommand, State.beginCycle, State.issue, BusRequest.hideCommand]
  | true =>
    rw [State.requestStart_busy h, State.requestStart_busy (s := s.hideCommand) h]
    simp [State.hideCommand]

theorem hideCommand_returnToHost (r : HostReg) (s : State) :
    (s.hideCommand.returnToHost r).hideCommand = (s.returnToHost r).hideCommand := by
  have read : HostRead.hideCommand ⟨r, s.hideCommand.hostValue r⟩ = HostRead.hideCommand ⟨r, s.hostValue r⟩ := by
    cases r <;> rfl
  simpa [State.hideCommand, State.returnToHost] using read

theorem hideCommand_takeHostAccess (write : Bool) (off n : Nat) (data : Word) (s : State) :
    mapNext State.hideCommand (takeHostAccess write off n data s.hideCommand) =
      mapNext State.hideCommand (takeHostAccess write off n data s) := by
  unfold takeHostAccess
  split
  · rfl
  split
  · rfl
  simp only [decodeHostAcc, haWord_off, haWord_dir]
  cases HostReg.ofOffset (BitVec.ofNat 5 off) with
  | none => rfl
  | some r =>
    cases write with
    | false =>
      simp only [Bool.false_eq_true, if_false, exec_readInstr]
      exact congrArg Host.Outcome.next (hideCommand_returnToHost r s)
    | true =>
      simp only [if_true, exec_writeInstr]
      cases r with
      | ctrl =>
        cases data.getLsbD 0 with
        | false => exact congrArg Host.Outcome.next s.hideCommand_hideCommand
        | true => exact congrArg Host.Outcome.next (hideCommand_requestStart s)
      | addr => simp [mapNext, State.hideCommand]
      | cmd => simp [mapNext, State.hideCommand]
      | timeout => simp [mapNext, State.hideCommand]
      | status | raw | result | tickcnt => exact congrArg Host.Outcome.next s.hideCommand_hideCommand

theorem hideCommand_takeWriteAnswer (code : BusStatus) (s : State) :
    (takeWriteAnswer code s.hideCommand).hideCommand = (takeWriteAnswer code s).hideCommand := by
  by_cases sent : s.state = .commandSent
  · by_cases success : code = .success
    · subst success
      rw [takeWriteAnswer_success sent, takeWriteAnswer_success (s := s.hideCommand) sent]
      simp [State.hideCommand, BusRecord.hideCommand, BusRequest.hideCommand]
    · rw [takeWriteAnswer_failure sent success, takeWriteAnswer_failure (s := s.hideCommand) sent success]
      simp [State.hideCommand, BusRecord.hideCommand]
  · rw [takeWriteAnswer_notSent sent, takeWriteAnswer_notSent (s := s.hideCommand) sent]
    exact s.hideCommand_hideCommand

/-- An answer is one of four bytes or a short one. -/
theorem ReadAnswer.full_or_short (answer : ReadAnswer) :
    (∃ b0 b1 b2 b3, answer = .four b0 b1 b2 b3) ∨ answer.bytes.length < 4 := by
  cases answer with
  | four b0 b1 b2 b3 => exact .inl ⟨b0, b1, b2, b3, rfl⟩
  | noData | one b0 | two b0 b1 | three b0 b1 b2 => exact .inr (by simp [ReadAnswer.bytes])

theorem hideCommand_takeReadAnswer (answer : ReadAnswer) (s : State) :
    (takeReadAnswer answer s.hideCommand).hideCommand = (takeReadAnswer answer s).hideCommand := by
  cases pending : s.readPending with
  | false =>
    rw [takeReadAnswer_notPending pending, takeReadAnswer_notPending (s := s.hideCommand) pending]
    exact s.hideCommand_hideCommand
  | true =>
    obtain ⟨b0, b1, b2, b3, rfl⟩ | short := answer.full_or_short
    · rw [takeReadAnswer_full pending, takeReadAnswer_full (s := s.hideCommand) pending]
      simp [State.hideCommand, BusRecord.hideCommand]
    by_cases exceeded : s.reqTimeout.toNat < (s.tickcnt + 1#17).toNat
    · rw [takeReadAnswer_timedOut pending short exceeded,
        takeReadAnswer_timedOut (s := s.hideCommand) pending short exceeded]
      simp [State.hideCommand, BusRecord.hideCommand]
    · have within := Nat.le_of_not_lt exceeded
      rw [takeReadAnswer_toRetry pending short within,
        takeReadAnswer_toRetry (s := s.hideCommand) pending short within]
      simp [State.hideCommand, BusRecord.hideCommand]

theorem hideCommand_takeTick (s : State) : (takeTick s.hideCommand).hideCommand = (takeTick s).hideCommand := by
  cases polling : s.inPollWait with
  | false =>
    rw [takeTick_notInPollWait polling, takeTick_notInPollWait (s := s.hideCommand) polling]
    exact s.hideCommand_hideCommand
  | true =>
    rw [takeTick_inPollWait polling, takeTick_inPollWait (s := s.hideCommand) polling]
    simp [State.hideCommand, BusRequest.hideCommand]

theorem hideCommand_runDecode (s : State) :
    mapNext State.hideCommand (runDecode s.hideCommand) = mapNext State.hideCommand (runDecode s) := by
  by_cases reading : s.state = .reading
  · by_cases pos : posFlag s.sr = true
    · rw [runDecode_posFlag reading pos, runDecode_posFlag (s := s.hideCommand) reading pos]
      simp [mapNext, State.hideCommand]
    by_cases neg : negFlag s.sr = true
    · rw [runDecode_negFlag reading neg, runDecode_negFlag (s := s.hideCommand) reading neg]
      simp [mapNext, State.hideCommand]
    · rw [runDecode_noFlag reading pos neg, runDecode_noFlag (s := s.hideCommand) reading pos neg]
      simp [mapNext, State.hideCommand]
  · rw [runDecode_notReading reading, runDecode_notReading (s := s.hideCommand) reading]
    exact congrArg Host.Outcome.next s.hideCommand_hideCommand

theorem hideCommand_applyReset (s : State) : s.hideCommand.applyReset.hideCommand = s.applyReset.hideCommand := by
  simp [State.hideCommand, State.applyReset]

theorem hideCommand_takeEvent (e : Event) (s : State) :
    mapNext State.hideCommand (takeEvent e s.hideCommand) = mapNext State.hideCommand (takeEvent e s) := by
  cases e with
  | hostWr off n data => exact hideCommand_takeHostAccess true off n data s
  | hostRd off n => exact hideCommand_takeHostAccess false off n 0#32 s
  | busWriteResp code => exact congrArg Host.Outcome.next (hideCommand_takeWriteAnswer code s)
  | busReadResp answer => exact congrArg Host.Outcome.next (hideCommand_takeReadAnswer answer s)
  | tick => exact congrArg Host.Outcome.next (hideCommand_takeTick s)
  | decode => exact hideCommand_runDecode s
  | reset => exact congrArg Host.Outcome.next (hideCommand_applyReset s)

/-- The step of the state with the command byte hidden is the step of the state, but for the command byte. -/
theorem hideCommand_step (s : State) :
    mapNext State.hideCommand (step s.hideCommand) = mapNext State.hideCommand (step s) := by
  cases inputs : s.inputs with
  | cons e rest =>
    rw [step_event inputs, step_event (s := s.hideCommand) inputs]
    exact hideCommand_takeEvent e { s with inputs := rest }
  | nil =>
    by_cases reading : s.state = .reading
    · rw [step_noEvent_reading inputs reading, step_noEvent_reading (s := s.hideCommand) inputs reading]
      exact hideCommand_runDecode s
    · rw [step_noEvent_notReading inputs reading, step_noEvent_notReading (s := s.hideCommand) inputs reading]
      rfl

/-- Settles O36: both steps are, but for the command byte, the step of the one state with the byte hidden. -/
theorem commandByteDoesNotSteerTheController : Obligations.CommandByteDoesNotSteerTheController := by
  intro s t same
  have alike : mapNext State.hideCommand (step s) = mapNext State.hideCommand (step t) :=
    calc mapNext State.hideCommand (step s)
      _ = mapNext State.hideCommand (step s.hideCommand) := (hideCommand_step s).symm
      _ = mapNext State.hideCommand (step t.hideCommand) := by rw [same]
      _ = mapNext State.hideCommand (step t) := hideCommand_step t
  exact ⟨fun _ => mapNext_eq_next alike, fun _ => mapNext_eq_fault alike, fun _ => mapNext_eq_refused alike⟩

end Sys2Proof.Machine
end

section
/-! The steps of a cycle among host accesses and discarded ticks (R97, R137): what the cycle does depends on its own
part of the state only, which the other events keep. -/

namespace Sys2Proof.Machine

theorem cycleView_takeWriteAnswer (code : BusStatus) (s : State) :
    (takeWriteAnswer code s.cycleView).cycleView = (takeWriteAnswer code s).cycleView := by
  by_cases sent : s.state = .commandSent
  · by_cases success : code = .success
    · subst success
      rw [takeWriteAnswer_success sent, takeWriteAnswer_success (s := s.cycleView) sent]
      rfl
    · rw [takeWriteAnswer_failure sent success, takeWriteAnswer_failure (s := s.cycleView) sent success]
      rfl
  · rw [takeWriteAnswer_notSent sent, takeWriteAnswer_notSent (s := s.cycleView) sent]
    rfl

theorem cycleView_takeReadAnswer (answer : ReadAnswer) (s : State) :
    (takeReadAnswer answer s.cycleView).cycleView = (takeReadAnswer answer s).cycleView := by
  cases pending : s.readPending with
  | false =>
    rw [takeReadAnswer_notPending pending, takeReadAnswer_notPending (s := s.cycleView) pending]
    rfl
  | true =>
    obtain ⟨b0, b1, b2, b3, rfl⟩ | short := answer.full_or_short
    · rw [takeReadAnswer_full pending, takeReadAnswer_full (s := s.cycleView) pending]
      rfl
    by_cases exceeded : s.reqTimeout.toNat < (s.tickcnt + 1#17).toNat
    · rw [takeReadAnswer_timedOut pending short exceeded,
        takeReadAnswer_timedOut (s := s.cycleView) pending short exceeded]
      rfl
    · have within := Nat.le_of_not_lt exceeded
      rw [takeReadAnswer_toRetry pending short within,
        takeReadAnswer_toRetry (s := s.cycleView) pending short within]
      rfl

theorem cycleView_takeTick (s : State) : (takeTick s.cycleView).cycleView = (takeTick s).cycleView := by
  cases polling : s.inPollWait with
  | false =>
    rw [takeTick_notInPollWait polling, takeTick_notInPollWait (s := s.cycleView) polling]
    rfl
  | true =>
    rw [takeTick_inPollWait polling, takeTick_inPollWait (s := s.cycleView) polling]
    rfl

theorem cycleView_runDecode (s : State) :
    mapNext State.cycleView (runDecode s.cycleView) = mapNext State.cycleView (runDecode s) := by
  by_cases reading : s.state = .reading
  · by_cases pos : posFlag s.sr = true
    · rw [runDecode_posFlag reading pos, runDecode_posFlag (s := s.cycleView) reading pos]
      rfl
    by_cases neg : negFlag s.sr = true
    · rw [runDecode_negFlag reading neg, runDecode_negFlag (s := s.cycleView) reading neg]
      rfl
    · rw [runDecode_noFlag reading pos neg, runDecode_noFlag (s := s.cycleView) reading pos neg]
      rfl
  · rw [runDecode_notReading reading, runDecode_notReading (s := s.cycleView) reading]
    rfl

/-- The events that are steps of a conversion cycle: the bus agent's answers, TICK and DECODE. -/
def Event.isCycleStep : Event → Bool
  | .busWriteResp _ | .busReadResp _ | .tick | .decode => true
  | .hostWr _ _ _ | .hostRd _ _ | .reset => false

theorem cycleView_takeEvent {e : Event} (own : e.isCycleStep = true) (s : State) :
    mapNext State.cycleView (takeEvent e s.cycleView) = mapNext State.cycleView (takeEvent e s) := by
  cases e with
  | busWriteResp code => exact congrArg Host.Outcome.next (cycleView_takeWriteAnswer code s)
  | busReadResp answer => exact congrArg Host.Outcome.next (cycleView_takeReadAnswer answer s)
  | tick => exact congrArg Host.Outcome.next (cycleView_takeTick s)
  | decode => exact cycleView_runDecode s
  | hostWr off n data | hostRd off n | reset => cases own

/-- A step of the cycle acts alike on states with the same part of the cycle. -/
theorem takeEvent_sameCycle {e : Event} (own : e.isCycleStep = true) {s s' u : State}
    (same : s.cycleView = s'.cycleView) (taken : takeEvent e s = .next u) :
    ∃ u', takeEvent e s' = .next u' ∧ u.cycleView = u'.cycleView := by
  refine mapNext_eq_next ?_ taken
  rw [← cycleView_takeEvent own s, same, cycleView_takeEvent own s']

/-- The steps `cycle`, taken with no other event among them, lead from one state to another, BUSY before each of them
and in the poll wait before a TICK only. -/
inductive CycleRun : List Event → State → State → Prop where
  | finished (s : State) : CycleRun [] s s
  | step {e : Event} {cycle : List Event} {s u t : State} (own : e.isCycleStep = true) (busy : s.busy = true)
      (waitsForTick : e ≠ .tick → s.inPollWait = false) (taken : takeEvent e s = .next u)
      (later : CycleRun cycle u t) : CycleRun (e :: cycle) s t

theorem step_isHostAccess {s : State} {e : Event} {rest : List Event} (access : e.isHostAccess = true)
    (head : s.inputs = e :: rest) (busy : s.busy = true) :
    ∃ t, step s = .next t ∧ t.cycleView = s.cycleView ∧ t.inputs = rest := by
  have isAccess : (∃ off n data, e = .hostWr off n data) ∨ (∃ off n, e = .hostRd off n) := by
    cases e with
    | hostWr off n data => exact .inl ⟨off, n, data, rfl⟩
    | hostRd off n => exact .inr ⟨off, n, rfl⟩
    | busWriteResp code | busReadResp answer | tick | decode | reset => cases access
  have goesOn : ∃ t, step s = .next t ∧ t.inputs = rest := by
    obtain ⟨off, n, data, rfl⟩ | ⟨off, n, rfl⟩ := isAccess
    all_goals
      simp only [Event.isHostAccess, Bool.and_eq_true, beq_iff_eq, decide_eq_true_eq] at access
      obtain ⟨⟨rfl, inWindow⟩, aligned⟩ := access
    · exact alignedHostAccessesAlwaysComplete s rest off data inWindow aligned (.inl head)
    · exact alignedHostAccessesAlwaysComplete s rest off 0#32 inWindow aligned (.inr head)
  obtain ⟨t, next, later⟩ := goesOn
  exact ⟨t, next, step_hostAccess_keeps_cycleView next (congrArg List.head? head) busy isAccess, later⟩

/-- Host accesses and discarded ticks among the steps of a cycle change nothing of where it leads. -/
theorem core_run_cycleAmong {cycle events : List Event} (among : CycleAmong cycle events) {s s' t : State}
    {rest : List Event} (same : s'.cycleView = s.cycleView) (head : s.inputs = events ++ rest)
    (run : CycleRun cycle s' t) :
    ∃ u, Sys2Proof.core.run events.length s = .next u ∧ u.cycleView = t.cycleView ∧ u.inputs = rest := by
  induction among generalizing s s' with
  | finished =>
    cases run
    exact ⟨s, rfl, same.symm, head⟩
  | @cycleStep cycle events e _ ih =>
    cases run with
    | step own _ _ taken later =>
      obtain ⟨v, next, same'⟩ := takeEvent_sameCycle own (s' := { s with inputs := events ++ rest }) same taken
      obtain ⟨u, run, result⟩ := ih same' (takeEvent_keeps_inputs next) later
      exact ⟨u, (core_run_succ events.length ((step_event head).trans next)).trans run, result⟩
  | @hostAccess e cycle events h access _ ih =>
    have busy : s.busy = true := by
      cases run with
      | step _ busy => exact (congrArg State.busy same :).symm.trans busy
    obtain ⟨v, next, kept, later⟩ := step_isHostAccess access head busy
    obtain ⟨u, run, result⟩ := ih (same.trans kept.symm) later run
    exact ⟨u, (core_run_succ events.length next).trans run, result⟩
  | @discardedTick e cycle events notTick _ ih =>
    have discarded : s.inPollWait = false := by
      cases run with
      | step _ _ waitsForTick => exact (congrArg State.inPollWait same :).symm.trans (waitsForTick notTick)
    have next : step s = .next { s with inputs := events ++ rest } :=
      (step_tick head).trans (congrArg Host.Outcome.next (takeTick_notInPollWait discarded))
    obtain ⟨u, run, result⟩ := ih (s := { s with inputs := events ++ rest }) same rfl run
    exact ⟨u, (core_run_succ events.length next).trans run, result⟩

end Sys2Proof.Machine
end

section
/-! The attempt law (R97): the states of a cycle after its failed attempts, and the two ways it ends. -/

namespace Sys2Proof.Machine

/-- The state once the read attempts answered by `fails` failed within the budget and the next one is outstanding. -/
def State.afterFailures (s : State) (fails : List ReadAnswer) : State :=
  { s with
    tickcnt := s.tickcnt + BitVec.ofNat 17 fails.length
    history := s.history ++ readRecords s.reqAddr fails
    issued := s.issued ++ List.replicate fails.length (.read4 s.reqAddr) }

theorem State.afterFailures_cons (s : State) (a : ReadAnswer) (fails : List ReadAnswer) :
    (s.afterFailures [a]).afterFailures fails = s.afterFailures (a :: fails) := by
  simp [State.afterFailures, readRecords, BitVec.add_assoc, ← BitVec.ofNat_add, Nat.add_comm 1, ← List.replicate_succ]

/-- A failed attempt within the budget and the tick that ends its poll wait. -/
theorem cycleRun_retry {a : ReadAnswer} {tail : List Event} {s t : State} (pending : s.readPending = true)
    (short : a.bytes.length < 4) (within : (s.tickcnt + 1#17).toNat ≤ s.reqTimeout.toNat)
    (later : CycleRun tail (s.afterFailures [a]) t) : CycleRun (.busReadResp a :: .tick :: tail) s t := by
  obtain ⟨waiting, noPollWait⟩ := s.readPending_iff.1 pending
  have failed := takeReadAnswer_toRetry pending short within
  have polling : (takeReadAnswer a s).inPollWait = true := by
    rw [failed]
    exact (State.inPollWait_iff _).2 ⟨waiting, rfl⟩
  have retried : takeTick (takeReadAnswer a s) = s.afterFailures [a] := by
    rw [takeTick_inPollWait polling, failed, State.afterFailures, noPollWait]
    rfl
  refine .step rfl (s.busy_iff.2 (.inr (.inl waiting)))
    (fun _ => s.inPollWait_eq_false_iff.2 (.inr noPollWait)) rfl ?_
  exact .step rfl ((State.busy_iff _).2 (.inr (.inl ((State.inPollWait_iff _).1 polling).1)))
    (fun notTick => absurd rfl notTick) (congrArg Host.Outcome.next retried) later

theorem cycleRun_failThenTick {fails : List ReadAnswer} {tail : List Event} {s t : State}
    (pending : s.readPending = true) (short : ∀ a ∈ fails, a.bytes.length < 4)
    (within : s.tickcnt.toNat + fails.length ≤ s.reqTimeout.toNat) (later : CycleRun tail (s.afterFailures fails) t) :
    CycleRun (failThenTick fails ++ tail) s t := by
  induction fails generalizing s with
  | nil => simpa [State.afterFailures, failThenTick, readRecords] using later
  | cons a fails ih =>
    rw [List.length_cons] at within
    have count : (s.tickcnt + 1#17).toNat = s.tickcnt.toNat + 1 :=
      tickcnt_succ_toNat (budget := s.reqTimeout) (by omega)
    refine cycleRun_retry pending (short a List.mem_cons_self) (by omega) ?_
    refine ih pending (fun b hb => short b (List.mem_cons_of_mem a hb)) ?_ (s.afterFailures_cons a fails ▸ later)
    exact (congrArg (· + fails.length) count).trans_le (show _ ≤ s.reqTimeout.toNat by omega)

/-- The state of a cycle whose command write succeeded and whose attempts `fails` failed, the next one outstanding. -/
def State.attempting (s : State) (fails : List ReadAnswer) : State :=
  ({ s with
    wstat := .success, state := .awaitingConversion, pollWait := false,
    history := s.history ++ [.write s.reqAddr s.reqCmd .success],
    issued := s.issued ++ [.read4 s.reqAddr] } : State).afterFailures fails

theorem cycleRun_attempting {fails : List ReadAnswer} {tail : List Event} {s t : State}
    (sent : s.state = .commandSent) (noTicks : s.tickcnt = 0#17) (short : ∀ a ∈ fails, a.bytes.length < 4)
    (within : fails.length ≤ s.reqTimeout.toNat) (later : CycleRun tail (s.attempting fails) t) :
    CycleRun (.busWriteResp .success :: (failThenTick fails ++ tail)) s t := by
  refine .step rfl (s.busy_iff.2 (.inl sent)) (fun _ => s.inPollWait_eq_false_iff.2 (.inl (by simp [sent])))
    (congrArg Host.Outcome.next (takeWriteAnswer_success sent)) ?_
  exact cycleRun_failThenTick rfl short (by simpa [noTicks] using within) later

theorem attempting_tickcnt {fails : List ReadAnswer} {s : State} (noTicks : s.tickcnt = 0#17)
    (within : fails.length ≤ s.reqTimeout.toNat) : (s.attempting fails).tickcnt.toNat = fails.length := by
  have := s.reqTimeout.isLt
  have value : (s.attempting fails).tickcnt = 0#17 + BitVec.ofNat 17 fails.length := noTicks ▸ rfl
  rw [value, BitVec.zero_add, BitVec.toNat_ofNat, Nat.mod_eq_of_lt (by omega)]

theorem attempting_readsIssued (s : State) (fails : List ReadAnswer) :
    (s.attempting fails).readsIssued = s.readsIssued + (fails.length + 1) := by
  simp [State.attempting, State.afterFailures, State.readsIssued, List.countP_replicate]

theorem attempting_writesIssued (s : State) (fails : List ReadAnswer) :
    (s.attempting fails).writesIssued = s.writesIssued := by
  simp [State.attempting, State.afterFailures, State.writesIssued, List.countP_replicate]

theorem attempting_history (s : State) (fails : List ReadAnswer) :
    (s.attempting fails).history =
      s.history ++ .write s.reqAddr s.reqCmd .success :: readRecords s.reqAddr fails := by
  simp [State.attempting, State.afterFailures]

theorem failThenTick_length (fails : List ReadAnswer) : (failThenTick fails).length = 2 * fails.length := by
  induction fails with
  | nil => rfl
  | cons a fails ih => simp only [failThenTick, List.length_cons, ih]; omega

theorem readRecords_append (a : BusAddr) (fails : List ReadAnswer) (last : ReadAnswer) :
    readRecords a (fails ++ [last]) = readRecords a fails ++ [.read a last.bytes] := by
  simp [readRecords]

/-- Settles O55: the failed attempts lead to the last one (`cycleRun_attempting`), whose four bytes and DECODE end the
cycle in Done, and the other events among these steps change nothing of it (`core_run_cycleAmong`). -/
theorem attemptLawSuccess : Obligations.AttemptLawSuccess := by
  intro s fails b0 b1 b2 b3 events rest sent noTicks short within among head
  have filled := takeReadAnswer_full (s := s.attempting fails) rfl b0 b1 b2 b3
  have reading : (takeReadAnswer (.four b0 b1 b2 b3) (s.attempting fails)).state = .reading := by rw [filled]
  obtain ⟨result, ovf, decoded, -⟩ := runDecode_reading reading
  have lastSteps : CycleRun [.busReadResp (.four b0 b1 b2 b3), .decode] (s.attempting fails) _ :=
    .step rfl rfl (fun _ => rfl) rfl
      (.step rfl ((State.busy_iff _).2 (.inr (.inr reading)))
        (fun _ => (State.inPollWait_eq_false_iff _).2 (.inl (by simp [reading]))) decoded (.finished _))
  obtain ⟨u, ran, same, later⟩ :=
    core_run_cycleAmong among rfl head (cycleRun_attempting sent noTicks short within lastSteps)
  rw [filled] at same
  have steps : (successCycle fails b0 b1 b2 b3).length = 2 * (fails.length + 1) + 1 := by
    simp [successCycle, failThenTick_length]
    omega
  have history : u.history = (s.attempting fails).history ++ [.read s.reqAddr [b0, b1, b2, b3]] :=
    (congrArg State.history same :)
  rw [attempting_history, List.append_assoc, List.cons_append] at history
  exact ⟨steps, u, ran, (congrArg State.state same :), (congrArg State.pollWait same :),
    (congrArg (fun v => v.tickcnt.toNat) same).trans (attempting_tickcnt noTicks within), (congrArg State.raw same :),
    later, history, (congrArg State.readsIssued same).trans (attempting_readsIssued s fails),
    (congrArg State.writesIssued same).trans (attempting_writesIssued s fails)⟩

/-- Settles O56: the failed attempts lead to the last one (`cycleRun_attempting`), whose failure exceeds the budget, and
the other events among these steps change nothing of the cycle (`core_run_cycleAmong`). -/
theorem attemptLawTimeout : Obligations.AttemptLawTimeout := by
  intro s fails last events rest sent noTicks short lastShort budget among head
  have count := attempting_tickcnt noTicks budget.le
  have exceeding : ((s.attempting fails).tickcnt + 1#17).toNat = s.reqTimeout.toNat + 1 := by
    rw [tickcnt_succ_toNat (budget := s.reqTimeout) (by omega), count, budget]
  have ended := takeReadAnswer_timedOut (s := s.attempting fails) rfl lastShort (Nat.lt_of_succ_le exceeding.ge)
  have lastStep : CycleRun [.busReadResp last] (s.attempting fails) _ :=
    .step rfl rfl (fun _ => rfl) (congrArg Host.Outcome.next ended) (.finished _)
  obtain ⟨u, ran, same, later⟩ :=
    core_run_cycleAmong among rfl head (cycleRun_attempting sent noTicks short budget.le lastStep)
  have steps : (timeoutCycle fails last).length = 2 * s.reqTimeout.toNat + 2 := by
    simp [timeoutCycle, failThenTick_length, budget]
  have history : u.history = (s.attempting fails).history ++ [.read s.reqAddr last.bytes] :=
    (congrArg State.history same :)
  rw [attempting_history, List.append_assoc, List.cons_append, ← readRecords_append] at history
  have reads := (congrArg State.readsIssued same).trans (attempting_readsIssued s fails)
  rw [budget] at reads
  exact ⟨steps, u, ran, (congrArg State.state same :), (congrArg State.pollWait same :),
    (congrArg (fun v => v.tickcnt.toNat) same).trans exceeding, (congrArg State.raw same :),
    (congrArg State.result same :), (congrArg State.ovf same :), (congrArg State.sr same :), later, history, reads,
    (congrArg State.writesIssued same).trans (attempting_writesIssued s fails)⟩

end Sys2Proof.Machine
end
